-- ==== Sys2Proof/Word.lean ====
section
/-! DEFINITION. The words of the engine and the three small sets of names every other file speaks of:
the two lines, the two directions, the two levels (spec/00_scope.md R6, R7). -/

namespace Sys2Proof

/-- A command word: 16 bits (`CMD_WIDTH`, R6, R60). -/
abbrev Word := BitVec 16

/-- A data byte: 8 bits (`DATA_WIDTH`, R6). -/
abbrev Byte := BitVec 8

/-- The micro-step counter's width: 6 bits (R12). -/
abbrev SeqNo := BitVec 6

/-- The two lines the engine owns (`N_LINES` = 2, R6): the clock line and the data line (R1). -/
inductive Line where
  | scl
  | sda
  deriving DecidableEq, Repr

/-- The direction of a line, `in` or `out` (R7, R19). -/
inductive Dir where
  | inp
  | out
  deriving DecidableEq, Repr

/-- The level of a line, `low` or `high` (R7). -/
inductive Level where
  | low
  | high
  deriving DecidableEq, Repr

end Sys2Proof
end

