-- ==== Sys2Proof/Config.lean ====
section
/-! DEFINITION. What one implementation fixes, and the free values: the open parameters of
spec/00_scope.md R6 and spec/92_eei_decisions.md. An `opaque` constant has no body, so no proof can see its value. -/

namespace Sys2Proof

/-- The input `ACQUIRE_OK` at the reset `Machine.State.reset` stands for: whether both lines were acquired at setup
(R6, R133; OPEN, assumption 9). Every later reset gets its own argument. -/
opaque Config.acquireOk : Bool

/-- The peer oracle (R5, R47), where the script `State.peer` says nothing: whether the peer pulls the sampled line low at
sample number `n`. Free (assumption 6). -/
opaque Config.peerPulls : Nat → Bool

/-- The level of a line in contention (R48, U3) at sample number `n`: true is `high`. Free (assumption 7). -/
opaque Config.contendedHigh : Nat → Bool

/-- The delay quantum `Q` in nanoseconds: 5000 (R6, D15). No step reads it. -/
def Config.quantumNs : Nat := 5000

end Sys2Proof
end

