-- ==== Sys2Proof/Syntax.lean ====
section
/-! DEFINITION. The five commands (spec/00_scope.md R2, spec/30_encoding.md R61, R63), one constructor per row of the
opcode table, and the raw two-field form of a command word (R60). -/

namespace Sys2Proof

/-- A command with its operand (R61). -/
inductive Instr where
  /-- `START` (R80). -/
  | start
  /-- `STOP` (R81). -/
  | stop
  /-- `WRITE_BYTE b` (R90). -/
  | writeByte (b : Byte)
  /-- `WAIT_ACK` (R92). -/
  | waitAck
  /-- `READ_BYTE a`, `a` = `send_ack` (R100). -/
  | readByte (a : Bool)
  deriving DecidableEq, Repr

/-- A command word cut into its two fields (R60), before it is known to be a command. -/
structure RawCommand where
  /-- Bits 15:8: which primitive. -/
  op : Byte
  /-- Bits 7:0: the operand, or zero. -/
  arg : Byte
  deriving DecidableEq, Repr

end Sys2Proof
end

