-- ==== Sys2Proof/Machine/State.lean ====
section
/-! DEFINITION. The machine's state as plain data: the eleven elements of spec/10_state.md R11, then the model's own
fields (the trace of spec/00_scope.md R8, the environment's inputs, the record of host replies); the reasons a step stops;
and the state after reset (R130). -/

namespace Sys2Proof.Machine

/-- The trace alphabet (R8): `DIR(L,d)`, `DRV(L,v)`, `SMP(L)=v`, `DLY`, `DIAG(NACK)`. -/
inductive Event where
  | dir (l : Line) (d : Dir)
  | drv (l : Line) (v : Level)
  | smp (l : Line) (v : Level)
  | dly
  | diagNack
  deriving DecidableEq, Repr

/-- What the host can do (R41, R42). A written value is offered whole; registers 1 to 3 ignore it. -/
inductive HostAction where
  | regRead (n : Nat)
  | regWrite (n : Nat) (v : Word)
  deriving DecidableEq, Repr

/-- Whose move it is (R10): the engine's, the host's, or a reset with its input `ACQUIRE_OK` (R132, R133; teardown is a
reset, R135). -/
inductive Turn where
  | engine
  | host (a : HostAction)
  | reset (acquireOk : Bool)
  deriving DecidableEq, Repr

/-- Why a command write was refused (R111). -/
inductive RefuseReason where
  | notReady
  | busy
  | reserved
  deriving DecidableEq, Repr

/-- The value of a register read, at the register's own width (R21, R52): 16 bits for `CMD`, 8 for the rest. -/
inductive RegValue where
  | word (v : Word)
  | byte (v : Byte)
  deriving DecidableEq, Repr

/-- What the host is answered (R41, R42, R66). -/
inductive HostReply where
  /-- A read of register `n` returned `v`. -/
  | value (n : Nat) (v : RegValue)
  /-- The command word was accepted. -/
  | accepted
  /-- The command word was refused. -/
  | refused (r : RefuseReason)
  /-- A write of a read-only register did nothing. -/
  | ignored
  deriving DecidableEq, Repr

/-- The state. -/
structure State where
  /-- `SCL.DIR` (R19). -/
  sclDir : Dir
  /-- `SCL.OUT` (R20). -/
  sclOut : Level
  /-- `SDA.DIR` (R19). -/
  sdaDir : Dir
  /-- `SDA.OUT` (R20). -/
  sdaOut : Level
  /-- `IR`: the command word accepted last (R13). -/
  ir : Word
  /-- `SEQ`: index of the next micro-op (R12). -/
  seq : SeqNo
  /-- `BUSY` (R14). -/
  busy : Bool
  /-- `READY` (R15). -/
  ready : Bool
  /-- `ACK` (R16). -/
  ack : Bool
  /-- `CMDERR` (R17). -/
  cmdErr : Bool
  /-- `RXDATA` (R18). -/
  rxData : Byte
  /-- The trace `TR` since reset, oldest first (R8): the model's record, never read by a step. -/
  trace : List Event
  /-- The environment's script of the peer: at each of the next samples, whether the peer pulls the sampled line low (R5, R47,
  assumption 6). Past its end the peer is `Config.peerPulls`. -/
  peer : List Bool
  /-- The number of the next sample: the argument of the free values (assumption 6). -/
  draws : Nat
  /-- Which agent moves next (R10, assumption 2); past its end, the engine. -/
  schedule : List Turn
  /-- What the host has been answered, oldest first: the model's record (assumption 4). -/
  hostLog : List HostReply
  deriving DecidableEq, Repr

/-- What stops a step with a fault. -/
inductive Fault where
  /-- Cause code 1 (R45, R112): `Drive(L, v)` while `L.DIR = in`. Raised by the micro-op `Drive` of any command; it records the
  line, the command in `IR` and the step `SEQ`. Safe: hardware may go on where the model stops. -/
  | driveWhileInput (line : Line) (ir : Word) (seq : SeqNo)
  deriving DecidableEq, Repr

/-- What a step is refused for. -/
inductive Refusal where
  /-- An instruction without a meaning yet; raised by `exec` only. Safe. -/
  | notModelled (mnemonic : String)
  /-- The host accessed register number 4 or more (R41, R42, U7: no successor state, no effect); raised by `hostStep`. Safe. -/
  | noSuchRegister (n : Nat)
  /-- `BUSY = 1` with a reserved word in `IR`, which no run reaches (R28 names no micro-op there); raised by `engineStep`. Safe. -/
  | reservedInIR (w : Word)
  /-- `SEQ` at or past the command's length, which no run reaches (R67 names no micro-op there); raised by `runMicroOp`. Safe. -/
  | noMicroOp (seq : SeqNo)
  deriving DecidableEq, Repr

/-- The state after a power-up reset with input `ACQUIRE_OK` (R11, R130). -/
def State.resetWith (acquireOk : Bool) : State :=
  { sclDir := .inp, sclOut := .high, sdaDir := .inp, sdaOut := .high,
    ir := 0x0000#16, seq := 0#6, busy := false, ready := acquireOk, ack := false, cmdErr := false,
    rxData := 0x00#8, trace := [], peer := [], draws := 0, schedule := [], hostLog := [] }

/-- The machine right after reset (R130); `ACQUIRE_OK` is open (assumption 9). -/
def State.reset : State := State.resetWith Config.acquireOk

end Sys2Proof.Machine
end

