-- ==== Sys2Proof/Machine/Operands.lean ====
section
/-! DEFINITION. Operand forms, levels as bits, and the receive shift (spec/00_scope.md R7, spec/20_memory.md R50,
spec/30_encoding.md R61, spec/42_read.md R101). -/

namespace Sys2Proof.Machine

/-- The level a bit is sent as: 1 is `high`, 0 is `low` (R50, R101). -/
def levelOfBit (b : Bool) : Level :=
  if b then .high else .low

/-- A level as a bit: `high` = 1, `low` = 0 (R7). -/
def levelBit : Level → Bool
  | .low => false
  | .high => true

/-- A direction as a bit: `out` = 1, `in` = 0 (R7). -/
def dirBit : Dir → Bool
  | .inp => false
  | .out => true

/-- The level of bit position `k` on the wire, `k` = 0 first: bit `7 - k` of the byte (R50, R67, R101). -/
def wireBit (b : Byte) (k : Nat) : Level :=
  levelOfBit (b.getLsbD (7 - k))

/-- The acknowledge level `READ_BYTE a` drives: `low` if `send_ack` is true, else `high` (R67, R101). -/
def ackLevel (a : Bool) : Level :=
  if a then .low else .high

/-- The receive shift `((acc << 1) | v)[7:0]` (R18, R67, R101). -/
def shiftIn (acc : Byte) (v : Level) : Byte :=
  (acc <<< 1) ||| (BitVec.ofBool (levelBit v)).setWidth 8

end Sys2Proof.Machine
end

