-- ==== Sys2Proof/Machine/Flags.lean ====
section
/-! DEFINITION. The flags: how `ACK` is computed, how a command begins and ends (`BUSY`, `SEQ`), and the two registers that
show flags and lines as bits (spec/10_state.md R12, R14, R16, R17, R22, R24, R28). -/

namespace Sys2Proof.Machine

/-- `ACK <- (v = low)` (R67, R92, R101). -/
def ackOf : Level → Bool
  | .low => true
  | .high => false

/-- `STATUS = {0b0000, CMDERR, ACK, READY, BUSY}` (R22). -/
def statusByte (s : State) : Byte :=
  0#4 ++ BitVec.ofBool s.cmdErr ++ BitVec.ofBool s.ack ++ BitVec.ofBool s.ready ++ BitVec.ofBool s.busy

/-- `LINES = {0b0000, SDA.OUT, SDA.DIR, SCL.OUT, SCL.DIR}` (R24). -/
def linesByte (s : State) : Byte :=
  0#4 ++ BitVec.ofBool (levelBit s.sdaOut) ++ BitVec.ofBool (dirBit s.sdaDir)
    ++ BitVec.ofBool (levelBit s.sclOut) ++ BitVec.ofBool (dirBit s.sclDir)

/-- The end of a micro-op of a command of `n` micro-ops (R28): the last one clears `SEQ` and `BUSY`, any other counts on. -/
def advance (n : Nat) (s : State) : State :=
  if s.seq.toNat + 1 = n then { s with seq := 0#6, busy := false }
  else { s with seq := s.seq + 1#6 }

/-- The mark a refused command write leaves: `CMDERR <- 1` (R17, R111). -/
def setCmdErr (s : State) : State :=
  { s with cmdErr := true }

end Sys2Proof.Machine
end

