-- ==== Sys2Proof/Machine/Ops.lean ====
section
/-! DEFINITION. The operations on the two lines (spec/20_memory.md R44 to R49, spec/41_write_ack.md R93), the micro-ops made
of them (spec/30_encoding.md R67), and one micro-op of a command (spec/10_state.md R28). The engine has no memory (R40), no
trap and no return from one (R116, R117): there is no such operation here. -/

namespace Sys2Proof.Machine

/-- `L.DIR`. -/
def State.dir (s : State) : Line → Dir
  | .scl => s.sclDir
  | .sda => s.sdaDir

/-- `L.OUT`. -/
def State.latch (s : State) : Line → Level
  | .scl => s.sclOut
  | .sda => s.sdaOut

/-- `L.DIR <- d`. -/
def State.putDir (s : State) : Line → Dir → State
  | .scl, d => { s with sclDir := d }
  | .sda, d => { s with sdaDir := d }

/-- `L.OUT <- v`. -/
def State.putLatch (s : State) : Line → Level → State
  | .scl, v => { s with sclOut := v }
  | .sda, v => { s with sdaOut := v }

/-- `TR <- TR ++ [e]` (R8). -/
def State.emit (s : State) (e : Event) : State :=
  { s with trace := s.trace ++ [e] }

/-- `SetDir(L, d)` (R44). -/
def setDir (l : Line) (d : Dir) (s : State) : State :=
  (s.putDir l d).emit (.dir l d)

/-- `Drive(L, v)` (R45): a fault while `L.DIR = in`. -/
def drive (l : Line) (v : Level) (s : State) : Host.Outcome State Fault Refusal :=
  match s.dir l with
  | .inp => .fault (.driveWhileInput l s.ir s.seq)
  | .out => .next ((s.putLatch l v).emit (.drv l v))

/-- `Delay()` (R49). -/
def delay (s : State) : State :=
  s.emit .dly

/-- `Diag(NACK)` (R93). -/
def diagNack (s : State) : State :=
  s.emit .diagNack

/-- Whether the peer pulls the line low at the `k`-th sample from now, `k` = 0 the next one: the script, then the free oracle
(R5, R47, assumption 6). -/
def State.peerPullAt (s : State) (k : Nat) : Bool :=
  (s.peer[k]?).getD (Config.peerPulls (s.draws + k))

/-- `Level(L)` (R47), given whether the peer pulls the line low and the level contention would give (R48). -/
def level (l : Line) (pulled : Bool) (contended : Level) (s : State) : Level :=
  match s.dir l, s.latch l with
  | .out, .low => .low
  | .out, .high => if pulled then contended else .high
  | .inp, _ => if pulled then .low else .high

/-- The level the next `Sample(L)` returns. -/
def sampleValue (l : Line) (s : State) : Level :=
  level l (s.peerPullAt 0) (levelOfBit (Config.contendedHigh s.draws)) s

/-- The state after `Sample(L)` returned `v` (R46): no engine state changes; the peer's answer is used up. -/
def afterSample (l : Line) (v : Level) (s : State) : State :=
  { s with peer := s.peer.tail, draws := s.draws + 1, trace := s.trace ++ [.smp l v] }

/-- A micro-op (R67), with the register updates its table rows attach to it. -/
inductive MicroOp where
  /-- `SetDir(L, d)`. -/
  | setDir (l : Line) (d : Dir)
  /-- `Drive(L, v)`. -/
  | drive (l : Line) (v : Level)
  /-- `Delay()`. -/
  | delay
  /-- `SetDir(SDA, in) ; RXDATA <- 0x00` (`READ_BYTE` step 0). -/
  | releaseAndClear
  /-- `v <- Sample(SDA) ; ACK <- (v = low)` (`WAIT_ACK` step 4). -/
  | sampleAck
  /-- `v <- Sample(SDA) ; RXDATA <- ((RXDATA << 1) | v)[7:0]` (`READ_BYTE`). -/
  | sampleRx
  /-- `SetDir(SDA, out) ; if ACK = 0: Diag(NACK)` (`WAIT_ACK` step 7). -/
  | reclaimAndDiag
  deriving DecidableEq, Repr

/-- What a micro-op does, before the counter moves (R67). -/
def perform : MicroOp → State → Host.Outcome State Fault Refusal
  | .setDir l d, s => .next (setDir l d s)
  | .drive l v, s => drive l v s
  | .delay, s => .next (delay s)
  | .releaseAndClear, s => .next { setDir .sda .inp s with rxData := 0x00#8 }
  | .sampleAck, s => .next { afterSample .sda (sampleValue .sda s) s with ack := ackOf (sampleValue .sda s) }
  | .sampleRx, s =>
    .next { afterSample .sda (sampleValue .sda s) s with rxData := shiftIn s.rxData (sampleValue .sda s) }
  | .reclaimAndDiag, s => .next (if s.ack then setDir .sda .out s else diagNack (setDir .sda .out s))

/-- `N(op)`, the number of micro-ops of a command (R67). -/
def stepCount : Instr → Nat
  | .start => 8
  | .stop => 6
  | .writeByte _ => 49
  | .waitAck => 8
  | .readByte _ => 47

/-- One engine step of a command of `n` micro-ops listed by `table` (R28): micro-op number `SEQ`, then the counter. -/
def runMicroOp (n : Nat) (table : Nat → Option MicroOp) (s : State) : Host.Outcome State Fault Refusal :=
  match table s.seq.toNat with
  | none => .refused (.noMicroOp s.seq)
  | some u =>
    match perform u s with
    | .next t => .next (advance n t)
    | .fault f => .fault f
    | .refused r => .refused r

end Sys2Proof.Machine
end

