-- ==== Sys2Proof/Machine/Framing.lean ====
section
/-! DEFINITION. The framing commands `START` and `STOP` (spec/40_framing.md R80 to R83). -/

namespace Sys2Proof.Machine

/-- The micro-ops of `START` (R67, R80). -/
def startUop : Nat → Option MicroOp
  | 0 => some (.setDir .sda .out)
  | 1 => some (.drive .sda .high)
  | 2 => some (.setDir .scl .out)
  | 3 => some (.drive .scl .high)
  | 4 => some .delay
  | 5 => some (.drive .sda .low)
  | 6 => some .delay
  | 7 => some (.drive .scl .low)
  | _ => none

/-- `START`: one engine step of it (R28, R80). -/
def execStart (s : State) : Host.Outcome State Fault Refusal :=
  runMicroOp (stepCount .start) startUop s

/-- The micro-ops of `STOP` (R67, R81). -/
def stopUop : Nat → Option MicroOp
  | 0 => some (.setDir .sda .out)
  | 1 => some (.drive .sda .low)
  | 2 => some (.drive .scl .high)
  | 3 => some .delay
  | 4 => some (.drive .sda .high)
  | 5 => some .delay
  | _ => none

/-- `STOP`: one engine step of it (R28, R81). -/
def execStop (s : State) : Host.Outcome State Fault Refusal :=
  runMicroOp (stepCount .stop) stopUop s

end Sys2Proof.Machine
end

