-- ==== Sys2Proof/Machine/Read.lean ====
section
/-! DEFINITION. `READ_BYTE` (spec/42_read.md R100 to R104). -/

namespace Sys2Proof.Machine

/-- The micro-ops of `READ_BYTE a` (R67, R100): steps 1 to 40 are bit position `(k - 1) div 5`, phase `(k - 1) mod 5`; steps 41
to 46 send the acknowledge bit. -/
def readByteUop (a : Bool) (k : Nat) : Option MicroOp :=
  if k = 0 then some .releaseAndClear
  else if k ≤ 40 then
    match (k - 1) % 5 with
    | 0 => some (.drive .scl .high)
    | 2 => some .sampleRx
    | 3 => some (.drive .scl .low)
    | _ => some .delay
  else
    match k with
    | 41 => some (.setDir .sda .out)
    | 42 => some (.drive .sda (ackLevel a))
    | 43 => some (.drive .scl .high)
    | 44 => some .delay
    | 45 => some (.drive .scl .low)
    | 46 => some .delay
    | _ => none

/-- `READ_BYTE a`: one engine step of it (R28, R100). -/
def execReadByte (a : Bool) (s : State) : Host.Outcome State Fault Refusal :=
  runMicroOp (stepCount (.readByte a)) (readByteUop a) s

end Sys2Proof.Machine
end

