-- ==== Sys2Proof/Machine/WriteAck.lean ====
section
/-! DEFINITION. `WRITE_BYTE` and `WAIT_ACK` (spec/41_write_ack.md R90 to R94). -/

namespace Sys2Proof.Machine

/-- The micro-ops of `WRITE_BYTE b` (R67, R90): after step 0, bit position `(k - 1) div 6` and phase `(k - 1) mod 6`. -/
def writeByteUop (b : Byte) (k : Nat) : Option MicroOp :=
  if k = 0 then some (.setDir .sda .out)
  else if k ≤ 48 then
    match (k - 1) % 6 with
    | 0 => some (.drive .sda (wireBit b ((k - 1) / 6)))
    | 2 => some (.drive .scl .high)
    | 4 => some (.drive .scl .low)
    | _ => some .delay
  else none

/-- `WRITE_BYTE b`: one engine step of it (R28, R90). -/
def execWriteByte (b : Byte) (s : State) : Host.Outcome State Fault Refusal :=
  runMicroOp (stepCount (.writeByte b)) (writeByteUop b) s

/-- The micro-ops of `WAIT_ACK` (R67, R92). -/
def waitAckUop : Nat → Option MicroOp
  | 0 => some (.setDir .sda .inp)
  | 1 => some .delay
  | 2 => some (.drive .scl .high)
  | 3 => some .delay
  | 4 => some .sampleAck
  | 5 => some (.drive .scl .low)
  | 6 => some .delay
  | 7 => some .reclaimAndDiag
  | _ => none

/-- `WAIT_ACK`: one engine step of it (R28, R92). -/
def execWaitAck (s : State) : Host.Outcome State Fault Refusal :=
  runMicroOp (stepCount .waitAck) waitAckUop s

end Sys2Proof.Machine
end

