-- ==== Sys2Proof/WellFormed.lean ====
section
/-! DEFINITION. When a raw command is a command (spec/30_encoding.md R61, R63, R64). A term of `Instr` carries its operand
at its own width and is always well formed; the checks are about the raw two-field form, where an operand can be wrong. -/

namespace Sys2Proof

/-- `op` names one of the five primitives: `0x01` to `0x05` (R63). -/
def RawCommand.opKnown (c : RawCommand) : Bool :=
  decide (1 ≤ c.op.toNat) && decide (c.op.toNat ≤ 5)

/-- `arg` is one the primitive takes (R61): any byte for `WRITE_BYTE`, bits 7:1 zero for `READ_BYTE`, zero for the rest. -/
def RawCommand.argFits (c : RawCommand) : Bool :=
  if c.op = 0x03#8 then true
  else if c.op = 0x05#8 then decide (c.arg.toNat < 2)
  else decide (c.arg = 0#8)

/-- The raw command is a command (R63); otherwise it is reserved (R64). -/
def RawCommand.wellFormed (c : RawCommand) : Bool :=
  c.opKnown && c.argFits

end Sys2Proof
end

