-- ==== Sys2Proof/Decode.lean ====
section
/-! DEFINITION. Decoding a command word, total on 16-bit words and rejecting by name (spec/30_encoding.md R63 to R65), then
the encoder, the assembler spelling (R69), and the host's numbering of a table word. -/

namespace Sys2Proof

/-- Why a word is reserved (R64). -/
inductive ReservedWhy where
  /-- `op` is `0x00` or at least `0x06`. -/
  | opUnknown
  /-- `op` is a primitive's, `arg` is not one it takes. -/
  | argNotZero
  deriving DecidableEq, Repr

/-- What a word decodes to (R65): a command, or RESERVED. -/
inductive Decoded where
  | command (i : Instr)
  | reserved (why : ReservedWhy)
  deriving DecidableEq, Repr

/-- The two fields of a word (R60). -/
def RawCommand.ofWord (w : Word) : RawCommand :=
  { op := w.extractLsb' 8 8, arg := w.extractLsb' 0 8 }

/-- Which of the two reasons of R64 a reserved word falls under. -/
def reservedWhy (w : Word) : ReservedWhy :=
  if (RawCommand.ofWord w).opKnown then .argNotZero else .opUnknown

/-- The decode function (R65), in the rule's own order. -/
def decode (w : Word) : Decoded :=
  if w = 0x0100#16 then .command .start
  else if w = 0x0200#16 then .command .stop
  else if w &&& 0xFF00#16 = 0x0300#16 then .command (.writeByte (w.extractLsb' 0 8))
  else if w = 0x0400#16 then .command .waitAck
  else if w &&& 0xFFFE#16 = 0x0500#16 then .command (.readByte (w.getLsbD 0))
  else .reserved (reservedWhy w)

/-- The word of a command, `{op, arg}` (R60, R61, R63). -/
def encode : Instr → Word
  | .start => 0x01#8 ++ 0x00#8
  | .stop => 0x02#8 ++ 0x00#8
  | .writeByte b => 0x03#8 ++ b
  | .waitAck => 0x04#8 ++ 0x00#8
  | .readByte a => 0x05#8 ++ (BitVec.ofBool a).setWidth 8

/-- One hexadecimal digit, `0` to `9` and `A` to `F` (R7). -/
def hexDigit (n : Nat) : String :=
  if n < 10 then toString n
  else if n = 10 then "A" else if n = 11 then "B" else if n = 12 then "C"
  else if n = 13 then "D" else if n = 14 then "E" else "F"

/-- A command in the assembler syntax of R69. -/
def Instr.render : Instr → String
  | .start => "START"
  | .stop => "STOP"
  | .writeByte b => "WRITE_BYTE 0x" ++ hexDigit (b.toNat / 16) ++ hexDigit (b.toNat % 16)
  | .waitAck => "WAIT_ACK"
  | .readByte true => "READ_BYTE ACK"
  | .readByte false => "READ_BYTE NACK"

/-- The table's word of `nbits` bits as a command word: one 16-bit word, bit 0 its least significant bit (R63). -/
def tableWord (nbits w : Nat) : Word :=
  BitVec.ofNat 16 (w % 2 ^ nbits)

/-- The instruction the decoder reads from the bits `w`; every command is one 16-bit word (R60), so a longer one is none. -/
def decodeTableWord (nbits w : Nat) : Option Instr :=
  if nbits ≤ 16 then
    match decode (tableWord nbits w) with
    | .command i => some i
    | .reserved _ => none
  else none

end Sys2Proof
end

