-- ==== Sys2Proof/Machine/HostPort.lean ====
section
/-! DEFINITION. The host's side: reading and writing the four registers (spec/10_state.md R21, spec/20_memory.md R41, R42),
offering a command word (spec/30_encoding.md R66, spec/60_exceptions.md R111, R114), and reset (spec/70_reset_and_hazards.md
R130 to R135). -/

namespace Sys2Proof.Machine

/-- `RegRead(n)` (R21, R41): the value, or none for a number that does not exist (U7). -/
def regRead (n : Nat) (s : State) : Option RegValue :=
  match n with
  | 0 => some (.word s.ir)
  | 1 => some (.byte (statusByte s))
  | 2 => some (.byte s.rxData)
  | 3 => some (.byte (linesByte s))
  | _ => none

/-- The reason code of a refusal (R111). -/
def refuseCode : RefuseReason → Nat
  | .notReady => 1
  | .busy => 2
  | .reserved => 3

/-- The cause code of a fault (R112). -/
def faultCode : Fault → Nat
  | .driveWhileInput _ _ _ => 1

/-- Whether and why a command word is refused (R66), the checks in the rule's order (R114). -/
def commandRefusal (w : Word) (s : State) : Option RefuseReason :=
  if s.ready = false then some .notReady
  else if s.busy = true then some .busy
  else
    match decode w with
    | .command _ => none
    | .reserved _ => some .reserved

/-- A command word accepted: `IR <- w ; SEQ <- 0 ; BUSY <- 1` (R66). -/
def acceptCommand (w : Word) (s : State) : State :=
  { s with ir := w, seq := 0#6, busy := true }

/-- Record what the host was answered. -/
def reply (r : HostReply) (s : State) : State :=
  { s with hostLog := s.hostLog ++ [r] }

/-- `RegWrite(0, w)` (R66): a refusal leaves the mark `CMDERR` and the machine goes on (R111, assumption 4). -/
def writeCmd (w : Word) (s : State) : State :=
  match commandRefusal w s with
  | some r => reply (.refused r) (setCmdErr s)
  | none => reply .accepted (acceptCommand w s)

/-- One host step (R41, R42, R125). -/
def hostStep (a : HostAction) (s : State) : Host.Outcome State Fault Refusal :=
  match a with
  | .regRead n =>
    match regRead n s with
    | some v => .next (reply (.value n v) s)
    | none => .refused (.noSuchRegister n)
  | .regWrite n v =>
    if n = 0 then .next (writeCmd v s)
    else if n ≤ 3 then .next (reply .ignored s)
    else .refused (.noSuchRegister n)

/-- Reset with input `ACQUIRE_OK` (R130, R132, R133, R135): every element of R11 at its reset value, the trace empty; the
environment's inputs and the record of replies are not the engine's and stay (assumption 5). -/
def resetEngine (acquireOk : Bool) (s : State) : State :=
  { State.resetWith acquireOk with
    peer := s.peer, draws := s.draws, schedule := s.schedule, hostLog := s.hostLog }

/-- The state in which the command word `w` has just been accepted and the engine moves next (R66). An accepted word means
`READY = 1` (R15), so that is set too (assumption 10). -/
def placeCommand (w : Word) (s : State) : State :=
  { acceptCommand w s with ready := true, schedule := [] }

end Sys2Proof.Machine
end

