-- ==== Sys2Proof/Machine/Engine.lean ====
section
/-! DEFINITION. The engine's step (spec/10_state.md R28) and one turn of any agent (R10). -/

namespace Sys2Proof.Machine

/-- The engine step (R28): while `BUSY = 1`, the next micro-op of the command in `IR`; while `BUSY = 0` the engine emits nothing
and changes nothing (assumption 3). -/
def engineStep (s : State) : Host.Outcome State Fault Refusal :=
  if s.busy = true then
    match decode s.ir with
    | .command i => exec i s
    | .reserved _ => .refused (.reservedInIR s.ir)
  else .next s

/-- One turn (R10, R125, R132). -/
def takeTurn (t : Turn) (s : State) : Host.Outcome State Fault Refusal :=
  match t with
  | .engine => engineStep s
  | .host a => hostStep a s
  | .reset acquireOk => .next (resetEngine acquireOk s)

/-- The turn at the head of the schedule, and the state with that turn taken off; the engine's once the schedule is used up
(assumption 2). -/
def nextTurn (s : State) : Turn × State :=
  match s.schedule with
  | [] => (.engine, s)
  | t :: rest => (t, { s with schedule := rest })

end Sys2Proof.Machine
end

