-- ==== Sys2Proof/Machine/Step.lean ====
section
/-! DEFINITION. The machine's step: one turn of the agent the schedule names (spec/10_state.md R10, R28, spec/60_exceptions.md
R125); and the state in which a given command word runs next. -/

namespace Sys2Proof.Machine

/-- One step. -/
def step (s : State) : Host.Outcome State Fault Refusal :=
  takeTurn (nextTurn s).1 (nextTurn s).2

/-- `s` with the command word accepted and the engine to move, so that the next step runs its first micro-op (assumption 10). -/
def State.withFetchWord (s : State) (nbits w : Nat) : State :=
  placeCommand (tableWord nbits w) s

end Sys2Proof.Machine
end

