-- ==== Sys2Proof/Safety.lean ====
section
/-! DEFINITION. The terms claims are made in: a command in flight, the invariants of runs, the abbreviations of the trace, the
delay count, and the host's duties (spec/00_scope.md R9, spec/70_reset_and_hazards.md R140 to R142, R155). -/

namespace Sys2Proof.Safety

open Sys2Proof.Machine

/-- The command `i` is in flight and only the engine will move. -/
abbrev inFlight (i : Instr) (s : State) : Prop :=
  s.busy = true ∧ decode s.ir = .command i ∧ s.schedule = []

/-- The command `i` has just been accepted and only the engine will move. -/
abbrev justAccepted (i : Instr) (s : State) : Prop :=
  inFlight i s ∧ s.seq = 0#6

/-- Both lines as reset leaves them (R130). -/
abbrev linesFresh (s : State) : Prop :=
  s.sclDir = .inp ∧ s.sclOut = .high ∧ s.sdaDir = .inp ∧ s.sdaOut = .high

/-- Both lines are outputs (R140, after the first `START`). -/
abbrev linesClaimed (s : State) : Prop :=
  s.sclDir = .out ∧ s.sdaDir = .out

/-- The table of R140: the lines at a command boundary, by the command completed last, which is the one in `IR`. -/
def boundaryLines (s : State) : Prop :=
  match decode s.ir with
  | .reserved _ => s.ir = 0x0000#16 ∧ linesFresh s
  | .command .start => linesClaimed s ∧ s.sclOut = .low ∧ s.sdaOut = .low
  | .command .stop => linesClaimed s ∧ s.sclOut = .high ∧ s.sdaOut = .high
  | .command (.writeByte b) => linesClaimed s ∧ s.sclOut = .low ∧ s.sdaOut = wireBit b 7
  | .command .waitAck => linesClaimed s ∧ s.sclOut = .low
  | .command (.readByte a) => linesClaimed s ∧ s.sclOut = .low ∧ s.sdaOut = ackLevel a

/-- The lines while micro-op `k` of a command is the next one (R67): what the micro-ops before it have left. -/
def midLines (i : Instr) (k : Nat) (s : State) : Prop :=
  (k = 0 → linesFresh s ∨ linesClaimed s) ∧
  match i with
  | .start =>
    (1 ≤ k → s.sdaDir = .out) ∧ (3 ≤ k → s.sclDir = .out) ∧
    (2 ≤ k → k ≤ 5 → s.sdaOut = .high) ∧ (6 ≤ k → s.sdaOut = .low) ∧ (4 ≤ k → s.sclOut = .high)
  | .stop =>
    (1 ≤ k → s.sdaDir = .out) ∧ (3 ≤ k → s.sclDir = .out ∧ s.sclOut = .high) ∧
    (2 ≤ k → k ≤ 4 → s.sdaOut = .low) ∧ (5 ≤ k → s.sdaOut = .high)
  | .writeByte b =>
    (1 ≤ k → s.sdaDir = .out) ∧ (2 ≤ k → s.sdaOut = wireBit b ((k - 2) / 6)) ∧
    (4 ≤ k → s.sclDir = .out ∧ s.sclOut = levelOfBit (decide ((k - 1) % 6 = 3 ∨ (k - 1) % 6 = 4)))
  | .waitAck =>
    (1 ≤ k → s.sdaDir = .inp) ∧ (3 ≤ k → s.sclDir = .out ∧ s.sclOut = levelOfBit (decide (k ≤ 5)))
  | .readByte a =>
    (1 ≤ k → k ≤ 41 → s.sdaDir = .inp) ∧ (42 ≤ k → s.sdaDir = .out) ∧ (43 ≤ k → s.sdaOut = ackLevel a) ∧
    (2 ≤ k → s.sclDir = .out ∧ s.sclOut = levelOfBit (decide
      ((k ≤ 40 ∧ 1 ≤ (k - 1) % 5 ∧ (k - 1) % 5 ≤ 3) ∨ k = 44 ∨ k = 45)))

/-- The invariant of runs: a command in flight means `READY` (R114), a boundary has `SEQ` = 0 (R12) and the lines of R140; a command
in flight is a command of R63 with `SEQ` inside it (R12) and the lines its micro-ops so far have left (R67). -/
def runInv (s : State) : Prop :=
  (s.busy = true → s.ready = true) ∧
  (s.busy = false → s.seq = 0#6 ∧ boundaryLines s) ∧
  (s.busy = true → ∃ i, decode s.ir = .command i ∧ s.seq.toNat < stepCount i ∧ midLines i s.seq.toNat s)

/-- The turn a step takes is no reset. -/
def noReset (s : State) : Prop :=
  ∀ ok, (nextTurn s).1 ≠ .reset ok

/-- `k` steps from `s`. -/
def run (k : Nat) (s : State) : Host.Outcome State Fault Refusal :=
  Host.Core.run Sys2Proof.core k s

/-- Two states alike in everything that decides what the engine and the host may do: all but what the peer's answers flow into
(`ACK`, `RXDATA`, the trace, the record of replies) and the peer itself (R47, R68). -/
def alikeButPeer (s t : State) : Prop :=
  s.sclDir = t.sclDir ∧ s.sclOut = t.sclOut ∧ s.sdaDir = t.sdaDir ∧ s.sdaOut = t.sdaOut ∧
  s.ir = t.ir ∧ s.seq = t.seq ∧ s.busy = t.busy ∧ s.ready = t.ready ∧ s.cmdErr = t.cmdErr ∧ s.schedule = t.schedule

/-- Two states alike in every element of the machine but the mark `CMDERR` (R11, R17), and in the trace and the inputs. -/
def alikeButMark (s t : State) : Prop :=
  s.sclDir = t.sclDir ∧ s.sclOut = t.sclOut ∧ s.sdaDir = t.sdaDir ∧ s.sdaOut = t.sdaOut ∧
  s.ir = t.ir ∧ s.seq = t.seq ∧ s.busy = t.busy ∧ s.ready = t.ready ∧ s.ack = t.ack ∧ s.rxData = t.rxData ∧
  s.trace = t.trace ∧ s.peer = t.peer ∧ s.draws = t.draws ∧ s.schedule = t.schedule

/-- Two steps end alike: both in a next state, the two alike by `r`, or both in the same fault, or in the same refusal. -/
def endAlike (r : State → State → Prop) (x y : Host.Outcome State Fault Refusal) : Prop :=
  match x, y with
  | .next s, .next t => r s t
  | .fault f, .fault g => f = g
  | .refused p, .refused q => p = q
  | _, _ => False

/-- The step at which a command first drives the clock line (R67): where a command other than `START` faults while that line is an
input (R112). -/
def firstClockDrive : Instr → Nat
  | .start => 3
  | .stop => 2
  | .writeByte _ => 3
  | .waitAck => 2
  | .readByte _ => 1

/-- `W(v)`: the six events of one transmitted bit (R9). -/
def wireOut (v : Level) : List Event :=
  [.drv .sda v, .dly, .drv .scl .high, .dly, .drv .scl .low, .dly]

/-- `R(v)`: the five events of one received bit (R9). -/
def wireIn (v : Level) : List Event :=
  [.drv .scl .high, .dly, .smp .sda v, .drv .scl .low, .dly]

/-- The number of delay quanta a trace holds (R49, R155). -/
def delayCount (tr : List Event) : Nat :=
  tr.countP (fun e => decide (e = .dly))

/-- The least duration of a trace, each quantum lasting `q` and the other micro-ops nothing (R155). -/
def leastDuration (q : Nat) (tr : List Event) : Nat :=
  q * delayCount tr

/-- The level the peer leaves on a line released by the engine (R47), by whether it pulls. -/
def releasedLevel (pulled : Bool) : Level :=
  if pulled then .low else .high

/-- The byte `READ_BYTE` assembles from the peer's next eight answers, the first in bit 7 (R100). -/
def receivedByte (s : State) : Byte :=
  (List.range 8).foldl (fun acc k => shiftIn acc (releasedLevel (s.peerPullAt k))) 0x00#8

/-- The turns in which a host issues the command `i` and waits until it has completed (R69, R151). -/
def issue (i : Instr) : List Turn :=
  .host (.regWrite 0 (encode i)) :: List.replicate (stepCount i) .engine

/-- The turns of a list of commands, each issued after the one before it has completed (R69). -/
def issueAll (is : List Instr) : List Turn :=
  is.flatMap issue

/-- Where a host stands in the grammar of R141; a duty of the host, read by no step (R27). -/
inductive Phase where
  | outside
  | inside
  | afterWrite
  deriving DecidableEq, Repr

/-- The grammar of R141, one command at a time. -/
def Phase.next : Phase → Instr → Option Phase
  | .outside, .start => some .inside
  | .inside, .writeByte _ => some .afterWrite
  | .inside, .readByte _ => some .inside
  | .inside, .stop => some .outside
  | .afterWrite, .waitAck => some .inside
  | _, _ => none

/-- A list of commands is a sequence of transactions (R141). -/
def legalFrom : Phase → List Instr → Bool
  | p, [] => decide (p = .outside)
  | p, i :: rest =>
    match p.next i with
    | some q => legalFrom q rest
    | none => false

/-- A host program that keeps to the grammar of R141. -/
def legalProgram (is : List Instr) : Bool :=
  legalFrom .outside is

end Sys2Proof.Safety
end

