-- ==== Sys2Proof/Certificates/Slice0/Obligations.lean ====
section
/-! DEFINITION. The statements for the provers, from the numbered rules of spec/. -/

open Sys2Proof Sys2Proof.Machine Sys2Proof.Safety

/-! ## Encoding -/

/-- Decoding the word of any command gives that command back (R61, R63, R65). -/
def Obligations.DecodeOfEncode : Prop :=
  ∀ i : Instr, decode (encode i) = .command i

/-- A word that decodes to a command is that command's word: no two words stand for one command (R63, R65). -/
def Obligations.EncodeOfDecode : Prop :=
  ∀ (w : Word) (i : Instr), decode w = .command i → encode i = w

/-- R63: the five rows by match and mask, their fields, how many words select each row, and 261 commands in all. -/
def Obligations.OpcodeMapRows : Prop :=
  (∀ w : Word,
    (w &&& 0xFFFF#16 = 0x0100#16 ↔ decode w = .command .start) ∧
    (w &&& 0xFFFF#16 = 0x0200#16 ↔ decode w = .command .stop) ∧
    (w &&& 0xFF00#16 = 0x0300#16 ↔ decode w = .command (.writeByte (w.extractLsb' 0 8))) ∧
    (w &&& 0xFFFF#16 = 0x0400#16 ↔ decode w = .command .waitAck) ∧
    (w &&& 0xFFFE#16 = 0x0500#16 ↔ decode w = .command (.readByte (w.getLsbD 0)))) ∧
  Set.ncard {w : Word | decode w = .command .start} = 1 ∧
  Set.ncard {w : Word | decode w = .command .stop} = 1 ∧
  Set.ncard {w : Word | ∃ b, decode w = .command (.writeByte b)} = 256 ∧
  Set.ncard {w : Word | decode w = .command .waitAck} = 1 ∧
  Set.ncard {w : Word | ∃ a, decode w = .command (.readByte a)} = 2 ∧
  Set.ncard {w : Word | ∃ i, decode w = .command i} = 261

/-- Exactly which words are reserved (R64), and that offering one to `CMD` sets `CMDERR` and changes nothing else of the machine (R64,
R66), for the reason Reserved where no earlier check refuses it (R66, R111). The reply record is the model's own (assumption 4). -/
def Obligations.ReservedWordsAreRefused : Prop :=
  ∀ w : Word,
    ((∃ why, decode w = .reserved why) ↔
      ((w.extractLsb' 8 8).toNat = 0 ∨ 6 ≤ (w.extractLsb' 8 8).toNat ∨
       (((w.extractLsb' 8 8).toNat = 1 ∨ (w.extractLsb' 8 8).toNat = 2 ∨ (w.extractLsb' 8 8).toNat = 4) ∧
          w.extractLsb' 0 8 ≠ 0#8) ∨
       ((w.extractLsb' 8 8).toNat = 5 ∧ w.extractLsb' 1 7 ≠ 0#7))) ∧
    ∀ (s : State) (why : ReservedWhy), decode w = .reserved why →
      (∃ r, hostStep (.regWrite 0 w) s
        = .next { s with cmdErr := true, hostLog := s.hostLog ++ [.refused r] }) ∧
      (s.ready = true → s.busy = false → hostStep (.regWrite 0 w) s
        = .next { s with cmdErr := true, hostLog := s.hostLog ++ [.refused .reserved] })

/-- R61: where each operand is taken from, and which bits must be zero. -/
def Obligations.OperandAssembly : Prop :=
  ∀ w : Word,
    (decode w = .command .start → w.extractLsb' 0 8 = 0#8) ∧
    (decode w = .command .stop → w.extractLsb' 0 8 = 0#8) ∧
    (∀ b, decode w = .command (.writeByte b) → b = w.extractLsb' 0 8 ∧ ∀ i, i < 8 → b.getLsbD i = w.getLsbD i) ∧
    (decode w = .command .waitAck → w.extractLsb' 0 8 = 0#8) ∧
    (∀ a, decode w = .command (.readByte a) → a = w.getLsbD 0 ∧ w.extractLsb' 1 7 = 0#7)

/-- A few words written out from the encodings of R63 and R64. -/
def Obligations.SampleWordsDecode : Prop :=
  decode 0b0000000100000000#16 = .command .start ∧
  decode 0b0000001000000000#16 = .command .stop ∧
  decode 0b0000001110100101#16 = .command (.writeByte 0xA5#8) ∧
  decode 0b0000010000000000#16 = .command .waitAck ∧
  decode 0b0000010100000001#16 = .command (.readByte true) ∧
  decode 0b0000010100000000#16 = .command (.readByte false) ∧
  decode 0b0000000000000000#16 = .reserved .opUnknown ∧
  decode 0b0000000100000001#16 = .reserved .argNotZero ∧
  decode 0b1000000100000000#16 = .reserved .opUnknown

/-! ## A step -/

/-- When the engine is to move and a command is in flight, a step is `exec` of the decoded command (R28); whose move it is, is the
schedule's say (assumption 2). -/
def Obligations.StepRunsDecodedCommand : Prop :=
  ∀ (s : State) (i : Instr), s.busy = true → decode s.ir = .command i →
    (s.schedule = [] → step s = exec i s) ∧
    (∀ rest, s.schedule = .engine :: rest → step s = exec i { s with schedule := rest })

/-- The state `withFetchWord` gives runs exactly the placed command next (assumption 10). -/
def Obligations.FetchedWordRunsNext : Prop :=
  ∀ (s : State) (nbits w : Nat) (i : Instr), decodeTableWord nbits w = some i →
    s.withFetchWord nbits w =
      { s with ir := tableWord nbits w, seq := 0#6, busy := true, ready := true, schedule := [] } ∧
    step (s.withFetchWord nbits w) = exec i (s.withFetchWord nbits w)

/-- The other turns: the host's, a reset's, and the engine's while no command is in flight, which changes nothing (R10, R28, R132;
the schedule and the stutter are the model's, assumptions 2 and 3). -/
def Obligations.TurnsOfTheOtherAgents : Prop :=
  ∀ (s : State) (rest : List Turn),
    (∀ a, s.schedule = .host a :: rest → step s = hostStep a { s with schedule := rest }) ∧
    (∀ ok, s.schedule = .reset ok :: rest → step s = .next (resetEngine ok { s with schedule := rest })) ∧
    (s.busy = false → s.schedule = [] → step s = .next s) ∧
    (s.busy = false → s.schedule = .engine :: rest → step s = .next { s with schedule := rest })

/-! ## The micro-ops of each command -/

/-- `START`, each of its eight micro-ops: it completes, and this is all it changes (R67, R80). Drives need the line's direction `out`,
which the command's own earlier steps set. -/
def Obligations.StartMicroOps : Prop :=
  ∀ s : State,
    (s.seq = 0#6 → exec .start s
      = .next { s with sdaDir := .out, seq := 1#6, trace := s.trace ++ [.dir .sda .out] }) ∧
    (s.seq = 1#6 → s.sdaDir = .out → exec .start s
      = .next { s with sdaOut := .high, seq := 2#6, trace := s.trace ++ [.drv .sda .high] }) ∧
    (s.seq = 2#6 → exec .start s
      = .next { s with sclDir := .out, seq := 3#6, trace := s.trace ++ [.dir .scl .out] }) ∧
    (s.seq = 3#6 → s.sclDir = .out → exec .start s
      = .next { s with sclOut := .high, seq := 4#6, trace := s.trace ++ [.drv .scl .high] }) ∧
    (s.seq = 4#6 → exec .start s = .next { s with seq := 5#6, trace := s.trace ++ [.dly] }) ∧
    (s.seq = 5#6 → s.sdaDir = .out → exec .start s
      = .next { s with sdaOut := .low, seq := 6#6, trace := s.trace ++ [.drv .sda .low] }) ∧
    (s.seq = 6#6 → exec .start s = .next { s with seq := 7#6, trace := s.trace ++ [.dly] }) ∧
    (s.seq = 7#6 → s.sclDir = .out → exec .start s
      = .next { s with sclOut := .low, seq := 0#6, busy := false, trace := s.trace ++ [.drv .scl .low] })

/-- `STOP`, each of its six micro-ops (R67, R81). -/
def Obligations.StopMicroOps : Prop :=
  ∀ s : State,
    (s.seq = 0#6 → exec .stop s
      = .next { s with sdaDir := .out, seq := 1#6, trace := s.trace ++ [.dir .sda .out] }) ∧
    (s.seq = 1#6 → s.sdaDir = .out → exec .stop s
      = .next { s with sdaOut := .low, seq := 2#6, trace := s.trace ++ [.drv .sda .low] }) ∧
    (s.seq = 2#6 → s.sclDir = .out → exec .stop s
      = .next { s with sclOut := .high, seq := 3#6, trace := s.trace ++ [.drv .scl .high] }) ∧
    (s.seq = 3#6 → exec .stop s = .next { s with seq := 4#6, trace := s.trace ++ [.dly] }) ∧
    (s.seq = 4#6 → s.sdaDir = .out → exec .stop s
      = .next { s with sdaOut := .high, seq := 5#6, trace := s.trace ++ [.drv .sda .high] }) ∧
    (s.seq = 5#6 → exec .stop s
      = .next { s with seq := 0#6, busy := false, trace := s.trace ++ [.dly] })

/-- `WRITE_BYTE b`, each of its 49 micro-ops, bit position `k` carrying bit `7 - k` of `b` (R67, R90). -/
def Obligations.WriteByteMicroOps : Prop :=
  ∀ (b : Byte) (s : State),
    (s.seq.toNat = 0 → exec (.writeByte b) s
      = .next { s with sdaDir := .out, seq := 1#6, trace := s.trace ++ [.dir .sda .out] }) ∧
    ∀ k, k < 8 →
      (s.seq.toNat = 1 + 6 * k → s.sdaDir = .out → exec (.writeByte b) s
        = .next { s with
            sdaOut := if b.getLsbD (7 - k) then .high else .low, seq := s.seq + 1#6,
            trace := s.trace ++ [.drv .sda (if b.getLsbD (7 - k) then .high else .low)] }) ∧
      (s.seq.toNat = 2 + 6 * k → exec (.writeByte b) s
        = .next { s with seq := s.seq + 1#6, trace := s.trace ++ [.dly] }) ∧
      (s.seq.toNat = 3 + 6 * k → s.sclDir = .out → exec (.writeByte b) s
        = .next { s with sclOut := .high, seq := s.seq + 1#6, trace := s.trace ++ [.drv .scl .high] }) ∧
      (s.seq.toNat = 4 + 6 * k → exec (.writeByte b) s
        = .next { s with seq := s.seq + 1#6, trace := s.trace ++ [.dly] }) ∧
      (s.seq.toNat = 5 + 6 * k → s.sclDir = .out → exec (.writeByte b) s
        = .next { s with sclOut := .low, seq := s.seq + 1#6, trace := s.trace ++ [.drv .scl .low] }) ∧
      (s.seq.toNat = 6 + 6 * k → k < 7 → exec (.writeByte b) s
        = .next { s with seq := s.seq + 1#6, trace := s.trace ++ [.dly] }) ∧
      (s.seq.toNat = 6 + 6 * k → k = 7 → exec (.writeByte b) s
        = .next { s with seq := 0#6, busy := false, trace := s.trace ++ [.dly] })

/-- `WAIT_ACK`, each of its eight micro-ops (R67, R92, R93). The sample of a released data line is what the peer leaves there, whatever
that is (R47). -/
def Obligations.WaitAckMicroOps : Prop :=
  ∀ s : State,
    (s.seq = 0#6 → exec .waitAck s
      = .next { s with sdaDir := .inp, seq := 1#6, trace := s.trace ++ [.dir .sda .inp] }) ∧
    (s.seq = 1#6 → exec .waitAck s = .next { s with seq := 2#6, trace := s.trace ++ [.dly] }) ∧
    (s.seq = 2#6 → s.sclDir = .out → exec .waitAck s
      = .next { s with sclOut := .high, seq := 3#6, trace := s.trace ++ [.drv .scl .high] }) ∧
    (s.seq = 3#6 → exec .waitAck s = .next { s with seq := 4#6, trace := s.trace ++ [.dly] }) ∧
    (s.seq = 4#6 → s.sdaDir = .inp → exec .waitAck s
      = .next { s with
          ack := s.peerPullAt 0, peer := s.peer.tail, draws := s.draws + 1, seq := 5#6,
          trace := s.trace ++ [.smp .sda (if s.peerPullAt 0 then .low else .high)] }) ∧
    (s.seq = 5#6 → s.sclDir = .out → exec .waitAck s
      = .next { s with sclOut := .low, seq := 6#6, trace := s.trace ++ [.drv .scl .low] }) ∧
    (s.seq = 6#6 → exec .waitAck s = .next { s with seq := 7#6, trace := s.trace ++ [.dly] }) ∧
    (s.seq = 7#6 → s.ack = true → exec .waitAck s
      = .next { s with sdaDir := .out, seq := 0#6, busy := false, trace := s.trace ++ [.dir .sda .out] }) ∧
    (s.seq = 7#6 → s.ack = false → exec .waitAck s
      = .next { s with
          sdaDir := .out, seq := 0#6, busy := false, trace := s.trace ++ [.dir .sda .out, .diagNack] })

/-- `READ_BYTE a`, each of its 47 micro-ops (R67, R100). -/
def Obligations.ReadByteMicroOps : Prop :=
  ∀ (a : Bool) (s : State),
    (s.seq.toNat = 0 → exec (.readByte a) s
      = .next { s with sdaDir := .inp, rxData := 0x00#8, seq := 1#6, trace := s.trace ++ [.dir .sda .inp] }) ∧
    (∀ k, k < 8 →
      (s.seq.toNat = 1 + 5 * k → s.sclDir = .out → exec (.readByte a) s
        = .next { s with sclOut := .high, seq := s.seq + 1#6, trace := s.trace ++ [.drv .scl .high] }) ∧
      (s.seq.toNat = 2 + 5 * k → exec (.readByte a) s
        = .next { s with seq := s.seq + 1#6, trace := s.trace ++ [.dly] }) ∧
      (s.seq.toNat = 3 + 5 * k → s.sdaDir = .inp → exec (.readByte a) s
        = .next { s with
            rxData := (s.rxData <<< 1) ||| (if s.peerPullAt 0 then 0#8 else 1#8),
            peer := s.peer.tail, draws := s.draws + 1, seq := s.seq + 1#6,
            trace := s.trace ++ [.smp .sda (if s.peerPullAt 0 then .low else .high)] }) ∧
      (s.seq.toNat = 4 + 5 * k → s.sclDir = .out → exec (.readByte a) s
        = .next { s with sclOut := .low, seq := s.seq + 1#6, trace := s.trace ++ [.drv .scl .low] }) ∧
      (s.seq.toNat = 5 + 5 * k → exec (.readByte a) s
        = .next { s with seq := s.seq + 1#6, trace := s.trace ++ [.dly] })) ∧
    (s.seq.toNat = 41 → exec (.readByte a) s
      = .next { s with sdaDir := .out, seq := 42#6, trace := s.trace ++ [.dir .sda .out] }) ∧
    (s.seq.toNat = 42 → s.sdaDir = .out → exec (.readByte a) s
      = .next { s with
          sdaOut := if a then .low else .high, seq := 43#6,
          trace := s.trace ++ [.drv .sda (if a then .low else .high)] }) ∧
    (s.seq.toNat = 43 → s.sclDir = .out → exec (.readByte a) s
      = .next { s with sclOut := .high, seq := 44#6, trace := s.trace ++ [.drv .scl .high] }) ∧
    (s.seq.toNat = 44 → exec (.readByte a) s = .next { s with seq := 45#6, trace := s.trace ++ [.dly] }) ∧
    (s.seq.toNat = 45 → s.sclDir = .out → exec (.readByte a) s
      = .next { s with sclOut := .low, seq := 46#6, trace := s.trace ++ [.drv .scl .low] }) ∧
    (s.seq.toNat = 46 → exec (.readByte a) s
      = .next { s with seq := 0#6, busy := false, trace := s.trace ++ [.dly] })

/-- The samples of `WAIT_ACK` and `READ_BYTE` complete whatever the data line's direction (R46: "valid in either direction"), with a
level that R47 gives: what the peer leaves on a released line, `low` for a line driven low, `high` for a line driven high that
nobody pulls; every other effect of the micro-op happens whatever the level is. That a driven line is sampled so is the model's choice (assumption 8). -/
def Obligations.SampleCompletesInEitherDirection : Prop :=
  ∀ s : State, ∃ v : Level,
    (s.sdaDir = .inp → v = if s.peerPullAt 0 then .low else .high) ∧
    (s.sdaDir = .out → s.sdaOut = .low → v = .low) ∧
    (s.sdaDir = .out → s.sdaOut = .high → s.peerPullAt 0 = false → v = .high) ∧
    (s.seq = 4#6 → exec .waitAck s
      = .next { s with
          ack := decide (v = .low), peer := s.peer.tail, draws := s.draws + 1, seq := 5#6,
          trace := s.trace ++ [.smp .sda v] }) ∧
    (∀ a k, k < 8 → s.seq.toNat = 3 + 5 * k → exec (.readByte a) s
      = .next { s with
          rxData := (s.rxData <<< 1) ||| (if v = .high then 1#8 else 0#8), peer := s.peer.tail, draws := s.draws + 1,
          seq := s.seq + 1#6, trace := s.trace ++ [.smp .sda v] })

/-- Where each command stops: every drive of a line that is an input faults, naming the line, the word and the step (R45, R67, R112). -/
def Obligations.EveryDriveOfAnInputFaults : Prop :=
  ∀ s : State,
    (s.sclDir = .inp →
      ((s.seq.toNat = 3 ∨ s.seq.toNat = 7) → exec .start s = .fault (.driveWhileInput .scl s.ir s.seq)) ∧
      (s.seq.toNat = 2 → exec .stop s = .fault (.driveWhileInput .scl s.ir s.seq)) ∧
      (∀ b k, k < 8 → (s.seq.toNat = 3 + 6 * k ∨ s.seq.toNat = 5 + 6 * k) →
        exec (.writeByte b) s = .fault (.driveWhileInput .scl s.ir s.seq)) ∧
      ((s.seq.toNat = 2 ∨ s.seq.toNat = 5) → exec .waitAck s = .fault (.driveWhileInput .scl s.ir s.seq)) ∧
      (∀ a k, k < 8 → (s.seq.toNat = 1 + 5 * k ∨ s.seq.toNat = 4 + 5 * k) →
        exec (.readByte a) s = .fault (.driveWhileInput .scl s.ir s.seq)) ∧
      (∀ a, (s.seq.toNat = 43 ∨ s.seq.toNat = 45) →
        exec (.readByte a) s = .fault (.driveWhileInput .scl s.ir s.seq))) ∧
    (s.sdaDir = .inp →
      ((s.seq.toNat = 1 ∨ s.seq.toNat = 5) → exec .start s = .fault (.driveWhileInput .sda s.ir s.seq)) ∧
      ((s.seq.toNat = 1 ∨ s.seq.toNat = 4) → exec .stop s = .fault (.driveWhileInput .sda s.ir s.seq)) ∧
      (∀ b k, k < 8 → s.seq.toNat = 1 + 6 * k →
        exec (.writeByte b) s = .fault (.driveWhileInput .sda s.ir s.seq)) ∧
      (∀ a, s.seq.toNat = 42 → exec (.readByte a) s = .fault (.driveWhileInput .sda s.ir s.seq)))

/-- States no run reaches, where the spec names no micro-op: `SEQ` at or past the command's length, and a reserved word in `IR` while
`BUSY` is 1. The model refuses both by name (its own choice, assumption 11). -/
def Obligations.NoMicroOpIsRefused : Prop :=
  (∀ (i : Instr) (s : State), stepCount i ≤ s.seq.toNat → exec i s = .refused (.noMicroOp s.seq)) ∧
  (∀ (s : State) (why : ReservedWhy), s.busy = true → decode s.ir = .reserved why → s.schedule = [] →
    step s = .refused (.reservedInIR s.ir))

/-! ## Whole commands, from acceptance to completion -/

/-- `START` from any state in which it has just been accepted, whatever the lines (R80): the eight events, both lines output low,
nothing else changed, and `LINES` reads `0x05`. -/
def Obligations.StartCompletes : Prop :=
  ∀ s : State, justAccepted .start s →
    ∃ t, run 8 s = .next t ∧ linesByte t = 0x05#8 ∧
      t = { s with
        sclDir := .out, sclOut := .low, sdaDir := .out, sdaOut := .low, seq := 0#6, busy := false,
        trace := s.trace ++ [.dir .sda .out, .drv .sda .high, .dir .scl .out, .drv .scl .high, .dly,
          .drv .sda .low, .dly, .drv .scl .low] }

/-- `STOP` from any state in which it has just been accepted and the clock line is an output (R81): both lines output high, `LINES`
reads `0x0F`. -/
def Obligations.StopCompletes : Prop :=
  ∀ s : State, justAccepted .stop s → s.sclDir = .out →
    ∃ t, run 6 s = .next t ∧ linesByte t = 0x0F#8 ∧
      t = { s with
        sclOut := .high, sdaDir := .out, sdaOut := .high, seq := 0#6, busy := false,
        trace := s.trace ++ [.dir .sda .out, .drv .sda .low, .drv .scl .high, .dly, .drv .sda .high, .dly] }

/-- `WRITE_BYTE b` (R90): the trace `DIR(SDA,out); W(b[7]); …; W(b[0])`, the clock left low, the data line left at `b[0]`, nothing else
changed. -/
def Obligations.WriteByteCompletes : Prop :=
  ∀ (b : Byte) (s : State), justAccepted (.writeByte b) s → s.sclDir = .out →
    run 49 s = .next { s with
      sclOut := .low, sdaDir := .out, sdaOut := if b.getLsbD 0 then .high else .low, seq := 0#6, busy := false,
      trace := s.trace ++ .dir .sda .out ::
        (List.range 8).flatMap (fun k => wireOut (if b.getLsbD (7 - k) then .high else .low)) }

/-- `WAIT_ACK` (R92, R94), whatever the peer answers: `ACK` is 1 exactly when the peer pulls the data line low at the one sample; the
latch of the data line is not written; a NACK adds one diagnostic and nothing else. -/
def Obligations.WaitAckCompletes : Prop :=
  ∀ s : State, justAccepted .waitAck s → s.sclDir = .out →
    run 8 s = .next { s with
      sclOut := .low, sdaDir := .out, ack := s.peerPullAt 0, peer := s.peer.tail, draws := s.draws + 1,
      seq := 0#6, busy := false,
      trace := s.trace ++ [.dir .sda .inp, .dly, .drv .scl .high, .dly,
        .smp .sda (if s.peerPullAt 0 then .low else .high), .drv .scl .low, .dly, .dir .sda .out]
        ++ (if s.peerPullAt 0 then [] else [.diagNack]) }

/-- `READ_BYTE a` (R100), whatever the peer answers: the trace `DIR(SDA,in); R(v7); …; R(v0)` and the acknowledge pulse, `RXDATA` the
eight samples with the first in bit 7, nothing else changed (`ACK` in particular). -/
def Obligations.ReadByteCompletes : Prop :=
  ∀ (a : Bool) (s : State), justAccepted (.readByte a) s → s.sclDir = .out →
    ∃ t, run 47 s = .next t ∧
      (∀ k, k < 8 → t.rxData.getLsbD (7 - k) = !(s.peerPullAt k)) ∧
      t = { s with
        sclOut := .low, sdaDir := .out, sdaOut := if a then .low else .high, rxData := t.rxData,
        peer := s.peer.drop 8, draws := s.draws + 8, seq := 0#6, busy := false,
        trace := s.trace ++ .dir .sda .inp ::
          (List.range 8).flatMap (fun k => wireIn (if s.peerPullAt k then .low else .high))
          ++ [.dir .sda .out, .drv .sda (if a then .low else .high), .drv .scl .high, .dly, .drv .scl .low, .dly] }

/-- Every accepted command completes after exactly `N(op)` engine steps if the clock line is an output (`START`: always), and after
`k < N(op)` steps it is still in flight with `SEQ = k` (R68, R125). -/
def Obligations.CompletesAfterExactlyN : Prop :=
  ∀ (i : Instr) (s : State), justAccepted i s → (i ≠ .start → s.sclDir = .out) →
    (∀ k, k < stepCount i → ∃ t, run k s = .next t ∧ t.busy = true ∧ t.seq.toNat = k ∧ t.ir = s.ir) ∧
    ∃ t, run (stepCount i) s = .next t ∧ t.busy = false ∧ t.seq = 0#6 ∧ t.ir = s.ir

/-- R155: the delays of each command and its least duration, for any quantum and at the default one. -/
def Obligations.DelaysPerCommand : Prop :=
  ∀ (i : Instr) (s : State), justAccepted i s → (i ≠ .start → s.sclDir = .out) →
    ∃ t tr, run (stepCount i) s = .next t ∧ t.trace = s.trace ++ tr ∧
      (∀ q, leastDuration q tr = (match i with
        | .start => 2 | .stop => 2 | .writeByte _ => 24 | .waitAck => 3 | .readByte _ => 18) * q) ∧
      leastDuration Config.quantumNs tr = (match i with
        | .start => 10000 | .stop => 10000 | .writeByte _ => 120000 | .waitAck => 15000 | .readByte _ => 90000)

/-- R82: `START` always makes the data line fall while the clock is held high: after step 3 both lines are outputs at high, step 5
drives the data line low with the clock still high, and no event of the clock lies between. -/
def Obligations.StartMakesStartCondition : Prop :=
  ∀ s : State, justAccepted .start s →
    ∃ t u v, run 4 s = .next t ∧ run 5 s = .next u ∧ run 6 s = .next v ∧
      t.sdaDir = .out ∧ t.sclDir = .out ∧ t.sdaOut = .high ∧ t.sclOut = .high ∧
      u.sdaDir = .out ∧ u.sclDir = .out ∧ u.sdaOut = .high ∧ u.sclOut = .high ∧
      v.sdaDir = .out ∧ v.sclDir = .out ∧ v.sdaOut = .low ∧ v.sclOut = .high ∧
      v.trace = t.trace ++ [.dly, .drv .sda .low]

/-- R83: `STOP` makes the data line rise while the clock is held high, from every start state whose clock line is an output. -/
def Obligations.StopMakesStopCondition : Prop :=
  ∀ s : State, justAccepted .stop s → s.sclDir = .out →
    ∃ t u v, run 3 s = .next t ∧ run 4 s = .next u ∧ run 5 s = .next v ∧
      t.sdaDir = .out ∧ t.sclDir = .out ∧ t.sdaOut = .low ∧ t.sclOut = .high ∧
      u.sdaDir = .out ∧ u.sclDir = .out ∧ u.sdaOut = .low ∧ u.sclOut = .high ∧
      v.sdaDir = .out ∧ v.sclDir = .out ∧ v.sdaOut = .high ∧ v.sclOut = .high ∧
      v.trace = t.trace ++ [.dly, .drv .sda .high]

/-- R91: the data-line drives of one `WRITE_BYTE b` are `b[7]` to `b[0]` in order, each followed before the next by one clock high and
one clock low; and the data latch is written only while the clock latch is low, provided it is low at entry. -/
def Obligations.WriteByteDrivesBitsMsbFirst : Prop :=
  ∀ (b : Byte) (s : State), justAccepted (.writeByte b) s → s.sclDir = .out →
    (∃ t tr, run 49 s = .next t ∧ t.trace = s.trace ++ tr ∧
      tr.filterMap (fun e => match e with | .drv .sda v => some v | _ => none)
        = [7, 6, 5, 4, 3, 2, 1, 0].map (fun n => if b.getLsbD n then Level.high else Level.low) ∧
      tr.filter (fun e => match e with | .drv _ _ => true | _ => false)
        = [7, 6, 5, 4, 3, 2, 1, 0].flatMap (fun n =>
            [.drv .sda (if b.getLsbD n then .high else .low), .drv .scl .high, .drv .scl .low])) ∧
    (s.sclOut = .low → ∀ k, k < 49 → ∃ u v, run k s = .next u ∧ run (k + 1) s = .next v ∧
      ((∃ w, v.trace = u.trace ++ [.drv .sda w]) → u.sclOut = .low) ∧
      (u.sdaOut ≠ v.sdaOut → u.sclOut = .low))

/-- R102: `READ_BYTE a` holds the data line as an output from step 41 and at `not a` from step 42 to its end, and the only clock pulse
after step 42 is steps 43 to 45. -/
def Obligations.ReadByteAcknowledgeLevel : Prop :=
  ∀ (a : Bool) (s : State), justAccepted (.readByte a) s → s.sclDir = .out →
    (∀ k, 42 ≤ k → k ≤ 47 → ∃ t, run k s = .next t ∧ t.sdaDir = .out ∧
      (43 ≤ k → t.sdaOut = if a then .low else .high)) ∧
    ∃ t u, run 43 s = .next t ∧ run 47 s = .next u ∧ u.trace = t.trace ++ [.drv .scl .high, .dly, .drv .scl .low, .dly]

/-- R103: if the peer presents the bits of `b`, bit 7 first, at the eight samples, `READ_BYTE` leaves `RXDATA = b`, for every `b` and
either acknowledge. -/
def Obligations.ReadByteReturnsThePeersByte : Prop :=
  ∀ (b : Byte) (a : Bool) (s : State), justAccepted (.readByte a) s → s.sclDir = .out →
    (∀ k, k < 8 → releasedLevel (s.peerPullAt k) = if b.getLsbD (7 - k) then .high else .low) →
    ∃ t, run 47 s = .next t ∧ t.busy = false ∧ t.rxData = b

/-! ## Faults -/

/-- Before any `START` the four other commands run up to their first drive of the clock line and fault there: `STOP` at step 2,
`WRITE_BYTE` at 3, `WAIT_ACK` at 2, `READ_BYTE` at 1; the micro-ops before it have been performed, and the fault names the line, the
word and the step (R112, R134). -/
def Obligations.FaultsBeforeTheFirstStart : Prop :=
  firstClockDrive .stop = 2 ∧ (∀ b, firstClockDrive (.writeByte b) = 3) ∧ firstClockDrive .waitAck = 2 ∧
  (∀ a, firstClockDrive (.readByte a) = 1) ∧
  ∀ (i : Instr) (s : State), justAccepted i s → s.sclDir = .inp → i ≠ .start →
    ∃ u, run (firstClockDrive i) s = .next u ∧ u.ir = s.ir ∧ u.seq.toNat = firstClockDrive i ∧ u.busy = true ∧
      u.trace.length = s.trace.length + firstClockDrive i ∧
      run (firstClockDrive i + 1) s = .fault (.driveWhileInput .scl u.ir u.seq)

/-- In a run, a step faults only at the clock line, only while that line is an input, and only at the four places of R112; it records
the line, `IR` and `SEQ`, cause code 1. -/
def Obligations.OnlyFaultIsClockDriveBeforeStart : Prop :=
  ∀ (s : State) (f : Fault), runInv s → step s = .fault f →
    f = .driveWhileInput .scl s.ir s.seq ∧ faultCode f = 1 ∧ s.sclDir = .inp ∧
    ((decode s.ir = .command .stop ∧ s.seq = 2#6) ∨
     (∃ b, decode s.ir = .command (.writeByte b) ∧ s.seq = 3#6) ∨
     (decode s.ir = .command .waitAck ∧ s.seq = 2#6) ∨
     (∃ a, decode s.ir = .command (.readByte a) ∧ s.seq = 1#6))

/-- Once the clock line is an output no step of a run faults, and it stays an output until a reset (R19, R134). -/
def Obligations.NoFaultOnceClockIsClaimed : Prop :=
  ∀ s : State, runInv s → s.sclDir = .out →
    (∀ f, step s ≠ .fault f) ∧ (∀ t, noReset s → step s = .next t → t.sclDir = .out)

/-! ## Invariants and whole-machine rules -/

/-- The invariant of runs holds after a power-up reset, whatever `ACQUIRE_OK` is. -/
def Obligations.ResetMeetsRunInv : Prop :=
  runInv State.reset ∧ ∀ ok, runInv (State.resetWith ok)

/-- Every step keeps the invariant of runs: `SEQ` stays inside the command in flight and is 0 at a boundary (R12), a command in flight
means `READY` (R114), and at every boundary the lines are as the table of R140 says. -/
def Obligations.StepKeepsRunInv : Prop :=
  ∀ s t : State, runInv s → step s = .next t → runInv t

/-- In a run a step has the outcome `refused` only for a host access to a register that does not exist (U7): the engine never meets a
reserved word or a step past the end. The refused command writes of R111 and R125 are next states in this model (its own choice,
assumption 4), so they are not among these. -/
def Obligations.OnlyRefusalIsNoSuchRegister : Prop :=
  ∀ (s : State) (r : Refusal), runInv s → step s = .refused r →
    ∃ n, 4 ≤ n ∧ r = .noSuchRegister n ∧
      ((nextTurn s).1 = .host (.regRead n) ∨ ∃ v, (nextTurn s).1 = .host (.regWrite n v))

/-- What the peer does changes neither how many micro-ops a command has nor what they do to the lines (R68, R113): two states that
differ only in the peer and in what its answers flow into take steps that end alike. -/
def Obligations.PeerDoesNotSteerTheEngine : Prop :=
  ∀ s t : State, alikeButPeer s t → endAlike alikeButPeer (step s) (step t)

/-- The counter (R12, R28): an engine step that answers a next state either counts `SEQ` on, or, at the last micro-op, clears `SEQ` and
`BUSY`; `IR` stays. -/
def Obligations.EngineStepCountsSeq : Prop :=
  ∀ (i : Instr) (s t : State), exec i s = .next t →
    s.seq.toNat < stepCount i ∧ t.ir = s.ir ∧
    (s.seq.toNat + 1 = stepCount i → t.seq = 0#6 ∧ t.busy = false) ∧
    (s.seq.toNat + 1 ≠ stepCount i → t.seq.toNat = s.seq.toNat + 1 ∧ t.busy = s.busy)

/-- R17: `CMDERR` is set by a refused command write, kept by everything but reset and set by nothing else. It does not stop the engine
and does not affect any later command: no micro-op, no acceptance, and no step of any agent depends on it, beyond the mark
itself and what the host is answered (a read of `STATUS` shows it, R22). -/
def Obligations.CmdErrIsSticky : Prop :=
  (∀ s t : State, noReset s → step s = .next t →
    (t.cmdErr = true ↔ s.cmdErr = true ∨
      ∃ w r, (nextTurn s).1 = .host (.regWrite 0 w) ∧ commandRefusal w s = some r)) ∧
  (∀ (s : State) (ok : Bool), (resetEngine ok s).cmdErr = false) ∧
  (∀ (i : Instr) (s : State) (c : Bool),
    endAlike (fun t u => u = { t with cmdErr := c }) (exec i s) (exec i { s with cmdErr := c })) ∧
  (∀ (w : Word) (s : State) (c : Bool), commandRefusal w { s with cmdErr := c } = commandRefusal w s) ∧
  (∀ (s : State) (c : Bool), endAlike alikeButMark (step s) (step { s with cmdErr := c }))

/-- `READY` takes `ACQUIRE_OK` at reset, never changes otherwise, and while it is 0 every command write is refused (R15), with the reason
`NotReady` (R66, R111). The reply record is the model's own (assumption 4). -/
def Obligations.ReadyOnlyFromReset : Prop :=
  (∀ (ok : Bool) (s : State), (State.resetWith ok).ready = ok ∧ (resetEngine ok s).ready = ok) ∧
  (∀ s t : State, noReset s → step s = .next t → t.ready = s.ready) ∧
  (∀ (w : Word) (s : State), s.ready = false → hostStep (.regWrite 0 w) s
    = .next { s with cmdErr := true, hostLog := s.hostLog ++ [.refused .notReady] })

/-- R13: `IR` is written only by an accepted command write, with the offered word; a refused one leaves it. The byte and the
`send_ack` operand of the command it holds are `IR[7:0]` and `IR[0]`. -/
def Obligations.IrWrittenOnlyByAcceptance : Prop :=
  (∀ s t : State, noReset s → step s = .next t →
    t.ir = s.ir ∨ ∃ w, (nextTurn s).1 = .host (.regWrite 0 w) ∧ commandRefusal w s = none ∧ t.ir = w) ∧
  (∀ (w : Word) (s : State) (r : RefuseReason), commandRefusal w s = some r → (writeCmd w s).ir = s.ir) ∧
  (∀ (w : Word) (s : State), commandRefusal w s = none → (writeCmd w s).ir = w) ∧
  (∀ (b : Byte) (s : State), decode s.ir = .command (.writeByte b) → b = s.ir.extractLsb' 0 8) ∧
  (∀ (a : Bool) (s : State), decode s.ir = .command (.readByte a) → a = s.ir.getLsbD 0)

/-- `ACK` is written only by step 4 of `WAIT_ACK` (R16). -/
def Obligations.AckWrittenOnlyByWaitAck : Prop :=
  ∀ s t : State, noReset s → step s = .next t → t.ack ≠ s.ack →
    s.busy = true ∧ decode s.ir = .command .waitAck ∧ s.seq = 4#6 ∧ (nextTurn s).1 = .engine

/-- `RXDATA` is written only by `READ_BYTE`, at step 0, which clears it, and at its eight samples (R18). -/
def Obligations.RxDataWrittenOnlyByReadByte : Prop :=
  ∀ s t : State, noReset s → step s = .next t → t.rxData ≠ s.rxData →
    s.busy = true ∧ (∃ a, decode s.ir = .command (.readByte a)) ∧ (nextTurn s).1 = .engine ∧
    ((s.seq = 0#6 ∧ t.rxData = 0x00#8) ∨ ∃ k, k < 8 ∧ s.seq.toNat = 3 + 5 * k)

/-- The clock line's direction changes only at step 2 of `START`, to `out`, until a reset (R19); either line's direction changes only
with the `DIR` event of a `SetDir` in the trace, and either latch only with a `DRV` event (R19, R20). -/
def Obligations.LineStateWrittenOnlyByItsMicroOps : Prop :=
  ∀ s t : State, noReset s → step s = .next t →
    (t.sclDir ≠ s.sclDir → t.sclDir = .out ∧ s.busy = true ∧ decode s.ir = .command .start ∧ s.seq = 2#6) ∧
    (t.sclDir ≠ s.sclDir → t.trace = s.trace ++ [.dir .scl t.sclDir]) ∧
    (t.sdaDir ≠ s.sdaDir → ∃ rest, t.trace = s.trace ++ .dir .sda t.sdaDir :: rest) ∧
    (t.sclOut ≠ s.sclOut → t.trace = s.trace ++ [.drv .scl t.sclOut]) ∧
    (t.sdaOut ≠ s.sdaOut → t.trace = s.trace ++ [.drv .sda t.sdaOut])

/-- R93: a diagnostic event is emitted by no step but the last of a `WAIT_ACK` whose `ACK` is 0, which emits exactly one; so a `WAIT_ACK`
whose sample is high emits one and one whose sample is low emits none. The event goes with no change of any register beyond that
micro-op's own. -/
def Obligations.OneDiagnosticPerNack : Prop :=
  (∀ s t : State, noReset s → step s = .next t →
    t.trace.count .diagNack = s.trace.count .diagNack +
      (if (nextTurn s).1 = .engine ∧ s.busy = true ∧ decode s.ir = .command .waitAck ∧ s.seq = 7#6 ∧ s.ack = false
       then 1 else 0)) ∧
  (∀ s : State, justAccepted .waitAck s → s.sclDir = .out →
    ∃ t, run 8 s = .next t ∧
      t.trace.count .diagNack = s.trace.count .diagNack + (if releasedLevel (s.peerPullAt 0) = .high then 1 else 0)) ∧
  (∀ s : State, diagNack s = { s with trace := s.trace ++ [.diagNack] })

/-- Any list of commands issued one after the other, each after the one before it has completed, runs to its end once the engine is
ready, idle and the clock line an output: no step faults or is refused, every one of the commands is accepted and none refused
(a command is accepted only when the one before it has completed), the last one is the one in `IR`, and `CMDERR` keeps its
value; the engine checks no order (R110, R125, R134). The schedule and the reply record are the model's own (assumptions 2
and 4). -/
def Obligations.CommandSequencesComplete : Prop :=
  ∀ (is : List Instr) (s : State), s.ready = true → s.busy = false → s.sclDir = .out → s.schedule = issueAll is →
    ∃ t, run (issueAll is).length s = .next t ∧ t.busy = false ∧ t.schedule = [] ∧
      t.hostLog = s.hostLog ++ List.replicate is.length .accepted ∧
      (∀ i, is.getLast? = some i → t.ir = encode i) ∧
      t.cmdErr = s.cmdErr ∧ t.sclDir = .out

/-- A host that keeps to the grammar of R141, from reset with both lines acquired: every command completes, nothing faults, nothing is
refused, and the clock line is an output at low whenever a command other than `START` is issued (R134, R141, R142). The schedule
that issues the commands is the model's own (assumption 2). -/
def Obligations.LegalProgramsRunFromReset : Prop :=
  ∀ (pre : List Instr) (i : Instr) (post : List Instr), legalProgram (pre ++ i :: post) = true →
    ∃ t, run (issueAll pre).length { State.resetWith true with schedule := issueAll pre } = .next t ∧
      t.busy = false ∧ t.cmdErr = false ∧ t.schedule = [] ∧
      (i ≠ .start → t.sclDir = .out ∧ t.sclOut = .low)

/-! ## Frames -/

/-- `START`, `STOP` and `WRITE_BYTE` change the lines, the counter and the trace and nothing else; only `START` changes the clock line's
direction (R80, R81, R90). -/
def Obligations.DrivingCommandsFrame : Prop :=
  ∀ (i : Instr) (s t : State), (i = .start ∨ i = .stop ∨ ∃ b, i = .writeByte b) → exec i s = .next t →
    t = { s with
      sclDir := t.sclDir, sclOut := t.sclOut, sdaDir := t.sdaDir, sdaOut := t.sdaOut,
      seq := t.seq, busy := t.busy, trace := t.trace } ∧
    (i ≠ .start → t.sclDir = s.sclDir)

/-- `WAIT_ACK` changes `ACK`, `SDA.DIR`, `SCL.OUT`, the counter, the trace and the peer's answers used up, and nothing else: not
`SDA.OUT`, not `RXDATA`, not `CMDERR`, not `IR` (R92). -/
def Obligations.WaitAckFrame : Prop :=
  ∀ s t : State, exec .waitAck s = .next t →
    t = { s with
      sclOut := t.sclOut, sdaDir := t.sdaDir, ack := t.ack, seq := t.seq, busy := t.busy, trace := t.trace,
      peer := t.peer, draws := t.draws }

/-- `READ_BYTE` changes `RXDATA`, both latches, `SDA.DIR`, the counter, the trace and the peer's answers used up, and nothing else: not
`ACK`, not `CMDERR`, not `IR` (R100). -/
def Obligations.ReadByteFrame : Prop :=
  ∀ (a : Bool) (s t : State), exec (.readByte a) s = .next t →
    t = { s with
      sclOut := t.sclOut, sdaDir := t.sdaDir, sdaOut := t.sdaOut, rxData := t.rxData, seq := t.seq, busy := t.busy,
      trace := t.trace, peer := t.peer, draws := t.draws }

/-- A host access never touches the lines, `READY`, `ACK`, `RXDATA`, the trace or the peer, and while a command is in flight it changes
at most `CMDERR` (R41, R42, R57, R58, R111). -/
def Obligations.HostActionFrame : Prop :=
  ∀ (a : HostAction) (s t : State), hostStep a s = .next t →
    t = { s with ir := t.ir, seq := t.seq, busy := t.busy, cmdErr := t.cmdErr, hostLog := t.hostLog } ∧
    (s.busy = true → t = { s with cmdErr := t.cmdErr, hostLog := t.hostLog })

/-! ## The host's registers -/

/-- Reads (R21, R41) and writes (R42) of the registers: reads of registers 0 to 3 return `IR`, `STATUS`, `RXDATA` and `LINES` at their widths and change nothing; a write of
register 0 offers a command word; writes of 1 to 3 change nothing; numbers 4 and above do not exist (U7). The reply record is
the model's own (assumption 4). -/
def Obligations.HostRegisterAccess : Prop :=
  ∀ (s : State) (v : Word),
    hostStep (.regRead 0) s = .next { s with hostLog := s.hostLog ++ [.value 0 (.word s.ir)] } ∧
    hostStep (.regRead 1) s = .next { s with hostLog := s.hostLog ++ [.value 1 (.byte (statusByte s))] } ∧
    hostStep (.regRead 2) s = .next { s with hostLog := s.hostLog ++ [.value 2 (.byte s.rxData)] } ∧
    hostStep (.regRead 3) s = .next { s with hostLog := s.hostLog ++ [.value 3 (.byte (linesByte s))] } ∧
    hostStep (.regWrite 0 v) s = .next (writeCmd v s) ∧
    (∀ n, 1 ≤ n → n ≤ 3 → hostStep (.regWrite n v) s = .next { s with hostLog := s.hostLog ++ [.ignored] }) ∧
    (∀ n, 4 ≤ n → hostStep (.regRead n) s = .refused (.noSuchRegister n) ∧
      hostStep (.regWrite n v) s = .refused (.noSuchRegister n))

/-- Acceptance of a command write (R66), with the codes of R111: the three checks in their order, each refusal leaving only `CMDERR`, and acceptance, which emits no
event. The reply record is the model's own (assumption 4). -/
def Obligations.CommandAcceptance : Prop :=
  (∀ (w : Word) (s : State),
    (s.ready = false → hostStep (.regWrite 0 w) s
      = .next { s with cmdErr := true, hostLog := s.hostLog ++ [.refused .notReady] }) ∧
    (s.ready = true → s.busy = true → hostStep (.regWrite 0 w) s
      = .next { s with cmdErr := true, hostLog := s.hostLog ++ [.refused .busy] }) ∧
    (∀ why, s.ready = true → s.busy = false → decode w = .reserved why → hostStep (.regWrite 0 w) s
      = .next { s with cmdErr := true, hostLog := s.hostLog ++ [.refused .reserved] }) ∧
    (∀ i, s.ready = true → s.busy = false → decode w = .command i → hostStep (.regWrite 0 w) s
      = .next { s with ir := w, seq := 0#6, busy := true, hostLog := s.hostLog ++ [.accepted] })) ∧
  refuseCode .notReady = 1 ∧ refuseCode .busy = 2 ∧ refuseCode .reserved = 3

/-- R22: the bits of `STATUS` and its value after reset. -/
def Obligations.StatusLayout : Prop :=
  (∀ s : State, regRead 1 s = some (.byte (statusByte s)) ∧
    (statusByte s).getLsbD 0 = s.busy ∧ (statusByte s).getLsbD 1 = s.ready ∧
    (statusByte s).getLsbD 2 = s.ack ∧ (statusByte s).getLsbD 3 = s.cmdErr ∧
    ∀ n, 4 ≤ n → n ≤ 7 → (statusByte s).getLsbD n = false) ∧
  ∀ ok, statusByte (State.resetWith ok) = if ok then 0x02#8 else 0x00#8

/-- R24: the bits of `LINES`, its value after reset, and that a read of it is no `Sample`: it appends nothing to the trace and uses up
no answer of the peer. -/
def Obligations.LinesLayout : Prop :=
  (∀ s : State, regRead 3 s = some (.byte (linesByte s)) ∧
    ((linesByte s).getLsbD 0 = true ↔ s.sclDir = .out) ∧ ((linesByte s).getLsbD 1 = true ↔ s.sclOut = .high) ∧
    ((linesByte s).getLsbD 2 = true ↔ s.sdaDir = .out) ∧ ((linesByte s).getLsbD 3 = true ↔ s.sdaOut = .high) ∧
    (∀ n, 4 ≤ n → n ≤ 7 → (linesByte s).getLsbD n = false) ∧
    ∃ t, hostStep (.regRead 3) s = .next t ∧ t.trace = s.trace ∧ t.peer = s.peer ∧ t.draws = s.draws) ∧
  ∀ ok, linesByte (State.resetWith ok) = 0x0A#8

/-! ## Reset -/

/-- Every element after reset, what the four registers then read, the empty trace (R130). That `State.reset` takes `ACQUIRE_OK` from an
opaque constant is the model's choice (assumption 9). -/
def Obligations.ResetValues : Prop :=
  State.reset = State.resetWith Config.acquireOk ∧
  ∀ ok, ∃ s : State, s = State.resetWith ok ∧
    s.sclDir = .inp ∧ s.sdaDir = .inp ∧ s.sclOut = .high ∧ s.sdaOut = .high ∧ s.ir = 0x0000#16 ∧ s.seq = 0#6 ∧
    s.busy = false ∧ s.ready = ok ∧ s.ack = false ∧ s.cmdErr = false ∧ s.rxData = 0x00#8 ∧ s.trace = [] ∧
    regRead 0 s = some (.word 0x0000#16) ∧ regRead 1 s = some (.byte (if ok then 0x02#8 else 0x00#8)) ∧
    regRead 2 s = some (.byte 0x00#8) ∧ regRead 3 s = some (.byte 0x0A#8)

/-- A reset turn may come at any time, in the middle of a command too, and ends it (R132); the peer's answers to come, the turns to
come and the record of replies stay (assumption 5). -/
def Obligations.ResetAtAnyTime : Prop :=
  ∀ (s : State) (ok : Bool) (rest : List Turn), s.schedule = .reset ok :: rest →
    step s = .next { State.resetWith ok with
      peer := s.peer, draws := s.draws, schedule := rest, hostLog := s.hostLog }

/-! ## The line operations -/

/-- R44: `SetDir` writes the direction, appends its event also when nothing changes, and takes effect at once: with `out` the line takes
the level of its latch, with `in` the engine no longer drives it. -/
def Obligations.SetDirTakesEffectAtOnce : Prop :=
  ∀ (d : Dir) (s : State),
    setDir .scl d s = { s with sclDir := d, trace := s.trace ++ [.dir .scl d] } ∧
    setDir .sda d s = { s with sdaDir := d, trace := s.trace ++ [.dir .sda d] } ∧
    ∀ (l : Line) (c : Level),
      level l false c (setDir l .out s) = s.latch l ∧
      ∀ pulled, level l pulled c (setDir l .inp s) = releasedLevel pulled

/-- `Drive` (R45): the latch and the event while the line is an output, also when the level is the latch's own; a fault while it is an
input. -/
def Obligations.DriveNeedsOutput : Prop :=
  ∀ (v : Level) (s : State),
    (s.sclDir = .out → drive .scl v s = .next { s with sclOut := v, trace := s.trace ++ [.drv .scl v] }) ∧
    (s.sdaDir = .out → drive .sda v s = .next { s with sdaOut := v, trace := s.trace ++ [.drv .sda v] }) ∧
    (∀ l, s.dir l = .inp → drive l v s = .fault (.driveWhileInput l s.ir s.seq))

/-- R47: the five rows of the level table, the contended row taking whatever level contention gives, for either line. -/
def Obligations.LevelTable : Prop :=
  ∀ (l : Line) (c : Level) (s : State),
    (∀ pulled, s.dir l = .out → s.latch l = .low → level l pulled c s = .low) ∧
    (s.dir l = .out → s.latch l = .high → level l false c s = .high ∧ level l true c s = c) ∧
    (s.dir l = .inp → level l true c s = .low ∧ level l false c s = .high)

/-- The receive shift is `(2 * RXDATA + v) mod 256` (R101); the flag is the complement of the sampled bit; the acknowledge level is
`not a`. -/
def Obligations.ReceiveArithmetic : Prop :=
  (∀ (acc : Byte) (v : Level), (shiftIn acc v).toNat = (2 * acc.toNat + (levelBit v).toNat) % 256) ∧
  (∀ v, ackOf v = !(levelBit v)) ∧ (∀ a, levelBit (ackLevel a) = !a)
end

