-- ==== Sys2Proof/Laws/State.lean ====
section
/-! SUPPORT. One lemma per field per update of State, true by rfl, so that no proof unfolds a record update. -/

namespace Sys2Proof.Machine

/-! ### Appending to the trace (R8) -/

@[simp] theorem State.emit_sclDir (s : State) (e : Event) : (s.emit e).sclDir = s.sclDir := rfl
@[simp] theorem State.emit_sclOut (s : State) (e : Event) : (s.emit e).sclOut = s.sclOut := rfl
@[simp] theorem State.emit_sdaDir (s : State) (e : Event) : (s.emit e).sdaDir = s.sdaDir := rfl
@[simp] theorem State.emit_sdaOut (s : State) (e : Event) : (s.emit e).sdaOut = s.sdaOut := rfl
@[simp] theorem State.emit_ir (s : State) (e : Event) : (s.emit e).ir = s.ir := rfl
@[simp] theorem State.emit_seq (s : State) (e : Event) : (s.emit e).seq = s.seq := rfl
@[simp] theorem State.emit_busy (s : State) (e : Event) : (s.emit e).busy = s.busy := rfl
@[simp] theorem State.emit_ready (s : State) (e : Event) : (s.emit e).ready = s.ready := rfl
@[simp] theorem State.emit_ack (s : State) (e : Event) : (s.emit e).ack = s.ack := rfl
@[simp] theorem State.emit_cmdErr (s : State) (e : Event) : (s.emit e).cmdErr = s.cmdErr := rfl
@[simp] theorem State.emit_rxData (s : State) (e : Event) : (s.emit e).rxData = s.rxData := rfl
@[simp] theorem State.emit_trace (s : State) (e : Event) : (s.emit e).trace = s.trace ++ [e] := rfl
@[simp] theorem State.emit_peer (s : State) (e : Event) : (s.emit e).peer = s.peer := rfl
@[simp] theorem State.emit_draws (s : State) (e : Event) : (s.emit e).draws = s.draws := rfl
@[simp] theorem State.emit_schedule (s : State) (e : Event) : (s.emit e).schedule = s.schedule := rfl
@[simp] theorem State.emit_hostLog (s : State) (e : Event) : (s.emit e).hostLog = s.hostLog := rfl

/-! ### Writing the direction of SCL (R19) -/

@[simp] theorem State.putDir_scl_sclDir (s : State) (d : Dir) : (s.putDir .scl d).sclDir = d := rfl
@[simp] theorem State.putDir_scl_sclOut (s : State) (d : Dir) : (s.putDir .scl d).sclOut = s.sclOut := rfl
@[simp] theorem State.putDir_scl_sdaDir (s : State) (d : Dir) : (s.putDir .scl d).sdaDir = s.sdaDir := rfl
@[simp] theorem State.putDir_scl_sdaOut (s : State) (d : Dir) : (s.putDir .scl d).sdaOut = s.sdaOut := rfl
@[simp] theorem State.putDir_scl_ir (s : State) (d : Dir) : (s.putDir .scl d).ir = s.ir := rfl
@[simp] theorem State.putDir_scl_seq (s : State) (d : Dir) : (s.putDir .scl d).seq = s.seq := rfl
@[simp] theorem State.putDir_scl_busy (s : State) (d : Dir) : (s.putDir .scl d).busy = s.busy := rfl
@[simp] theorem State.putDir_scl_ready (s : State) (d : Dir) : (s.putDir .scl d).ready = s.ready := rfl
@[simp] theorem State.putDir_scl_ack (s : State) (d : Dir) : (s.putDir .scl d).ack = s.ack := rfl
@[simp] theorem State.putDir_scl_cmdErr (s : State) (d : Dir) : (s.putDir .scl d).cmdErr = s.cmdErr := rfl
@[simp] theorem State.putDir_scl_rxData (s : State) (d : Dir) : (s.putDir .scl d).rxData = s.rxData := rfl
@[simp] theorem State.putDir_scl_trace (s : State) (d : Dir) : (s.putDir .scl d).trace = s.trace := rfl
@[simp] theorem State.putDir_scl_peer (s : State) (d : Dir) : (s.putDir .scl d).peer = s.peer := rfl
@[simp] theorem State.putDir_scl_draws (s : State) (d : Dir) : (s.putDir .scl d).draws = s.draws := rfl
@[simp] theorem State.putDir_scl_schedule (s : State) (d : Dir) : (s.putDir .scl d).schedule = s.schedule := rfl
@[simp] theorem State.putDir_scl_hostLog (s : State) (d : Dir) : (s.putDir .scl d).hostLog = s.hostLog := rfl

/-! ### Writing the direction of SDA (R19) -/

@[simp] theorem State.putDir_sda_sclDir (s : State) (d : Dir) : (s.putDir .sda d).sclDir = s.sclDir := rfl
@[simp] theorem State.putDir_sda_sclOut (s : State) (d : Dir) : (s.putDir .sda d).sclOut = s.sclOut := rfl
@[simp] theorem State.putDir_sda_sdaDir (s : State) (d : Dir) : (s.putDir .sda d).sdaDir = d := rfl
@[simp] theorem State.putDir_sda_sdaOut (s : State) (d : Dir) : (s.putDir .sda d).sdaOut = s.sdaOut := rfl
@[simp] theorem State.putDir_sda_ir (s : State) (d : Dir) : (s.putDir .sda d).ir = s.ir := rfl
@[simp] theorem State.putDir_sda_seq (s : State) (d : Dir) : (s.putDir .sda d).seq = s.seq := rfl
@[simp] theorem State.putDir_sda_busy (s : State) (d : Dir) : (s.putDir .sda d).busy = s.busy := rfl
@[simp] theorem State.putDir_sda_ready (s : State) (d : Dir) : (s.putDir .sda d).ready = s.ready := rfl
@[simp] theorem State.putDir_sda_ack (s : State) (d : Dir) : (s.putDir .sda d).ack = s.ack := rfl
@[simp] theorem State.putDir_sda_cmdErr (s : State) (d : Dir) : (s.putDir .sda d).cmdErr = s.cmdErr := rfl
@[simp] theorem State.putDir_sda_rxData (s : State) (d : Dir) : (s.putDir .sda d).rxData = s.rxData := rfl
@[simp] theorem State.putDir_sda_trace (s : State) (d : Dir) : (s.putDir .sda d).trace = s.trace := rfl
@[simp] theorem State.putDir_sda_peer (s : State) (d : Dir) : (s.putDir .sda d).peer = s.peer := rfl
@[simp] theorem State.putDir_sda_draws (s : State) (d : Dir) : (s.putDir .sda d).draws = s.draws := rfl
@[simp] theorem State.putDir_sda_schedule (s : State) (d : Dir) : (s.putDir .sda d).schedule = s.schedule := rfl
@[simp] theorem State.putDir_sda_hostLog (s : State) (d : Dir) : (s.putDir .sda d).hostLog = s.hostLog := rfl

/-! ### Writing the latch of SCL (R20) -/

@[simp] theorem State.putLatch_scl_sclDir (s : State) (v : Level) : (s.putLatch .scl v).sclDir = s.sclDir := rfl
@[simp] theorem State.putLatch_scl_sclOut (s : State) (v : Level) : (s.putLatch .scl v).sclOut = v := rfl
@[simp] theorem State.putLatch_scl_sdaDir (s : State) (v : Level) : (s.putLatch .scl v).sdaDir = s.sdaDir := rfl
@[simp] theorem State.putLatch_scl_sdaOut (s : State) (v : Level) : (s.putLatch .scl v).sdaOut = s.sdaOut := rfl
@[simp] theorem State.putLatch_scl_ir (s : State) (v : Level) : (s.putLatch .scl v).ir = s.ir := rfl
@[simp] theorem State.putLatch_scl_seq (s : State) (v : Level) : (s.putLatch .scl v).seq = s.seq := rfl
@[simp] theorem State.putLatch_scl_busy (s : State) (v : Level) : (s.putLatch .scl v).busy = s.busy := rfl
@[simp] theorem State.putLatch_scl_ready (s : State) (v : Level) : (s.putLatch .scl v).ready = s.ready := rfl
@[simp] theorem State.putLatch_scl_ack (s : State) (v : Level) : (s.putLatch .scl v).ack = s.ack := rfl
@[simp] theorem State.putLatch_scl_cmdErr (s : State) (v : Level) : (s.putLatch .scl v).cmdErr = s.cmdErr := rfl
@[simp] theorem State.putLatch_scl_rxData (s : State) (v : Level) : (s.putLatch .scl v).rxData = s.rxData := rfl
@[simp] theorem State.putLatch_scl_trace (s : State) (v : Level) : (s.putLatch .scl v).trace = s.trace := rfl
@[simp] theorem State.putLatch_scl_peer (s : State) (v : Level) : (s.putLatch .scl v).peer = s.peer := rfl
@[simp] theorem State.putLatch_scl_draws (s : State) (v : Level) : (s.putLatch .scl v).draws = s.draws := rfl
@[simp] theorem State.putLatch_scl_schedule (s : State) (v : Level) : (s.putLatch .scl v).schedule = s.schedule := rfl
@[simp] theorem State.putLatch_scl_hostLog (s : State) (v : Level) : (s.putLatch .scl v).hostLog = s.hostLog := rfl

/-! ### Writing the latch of SDA (R20) -/

@[simp] theorem State.putLatch_sda_sclDir (s : State) (v : Level) : (s.putLatch .sda v).sclDir = s.sclDir := rfl
@[simp] theorem State.putLatch_sda_sclOut (s : State) (v : Level) : (s.putLatch .sda v).sclOut = s.sclOut := rfl
@[simp] theorem State.putLatch_sda_sdaDir (s : State) (v : Level) : (s.putLatch .sda v).sdaDir = s.sdaDir := rfl
@[simp] theorem State.putLatch_sda_sdaOut (s : State) (v : Level) : (s.putLatch .sda v).sdaOut = v := rfl
@[simp] theorem State.putLatch_sda_ir (s : State) (v : Level) : (s.putLatch .sda v).ir = s.ir := rfl
@[simp] theorem State.putLatch_sda_seq (s : State) (v : Level) : (s.putLatch .sda v).seq = s.seq := rfl
@[simp] theorem State.putLatch_sda_busy (s : State) (v : Level) : (s.putLatch .sda v).busy = s.busy := rfl
@[simp] theorem State.putLatch_sda_ready (s : State) (v : Level) : (s.putLatch .sda v).ready = s.ready := rfl
@[simp] theorem State.putLatch_sda_ack (s : State) (v : Level) : (s.putLatch .sda v).ack = s.ack := rfl
@[simp] theorem State.putLatch_sda_cmdErr (s : State) (v : Level) : (s.putLatch .sda v).cmdErr = s.cmdErr := rfl
@[simp] theorem State.putLatch_sda_rxData (s : State) (v : Level) : (s.putLatch .sda v).rxData = s.rxData := rfl
@[simp] theorem State.putLatch_sda_trace (s : State) (v : Level) : (s.putLatch .sda v).trace = s.trace := rfl
@[simp] theorem State.putLatch_sda_peer (s : State) (v : Level) : (s.putLatch .sda v).peer = s.peer := rfl
@[simp] theorem State.putLatch_sda_draws (s : State) (v : Level) : (s.putLatch .sda v).draws = s.draws := rfl
@[simp] theorem State.putLatch_sda_schedule (s : State) (v : Level) : (s.putLatch .sda v).schedule = s.schedule := rfl
@[simp] theorem State.putLatch_sda_hostLog (s : State) (v : Level) : (s.putLatch .sda v).hostLog = s.hostLog := rfl

/-! ### A sample taken (R46) -/

@[simp] theorem afterSample_sclDir (l : Line) (v : Level) (s : State) : (afterSample l v s).sclDir = s.sclDir := rfl
@[simp] theorem afterSample_sclOut (l : Line) (v : Level) (s : State) : (afterSample l v s).sclOut = s.sclOut := rfl
@[simp] theorem afterSample_sdaDir (l : Line) (v : Level) (s : State) : (afterSample l v s).sdaDir = s.sdaDir := rfl
@[simp] theorem afterSample_sdaOut (l : Line) (v : Level) (s : State) : (afterSample l v s).sdaOut = s.sdaOut := rfl
@[simp] theorem afterSample_ir (l : Line) (v : Level) (s : State) : (afterSample l v s).ir = s.ir := rfl
@[simp] theorem afterSample_seq (l : Line) (v : Level) (s : State) : (afterSample l v s).seq = s.seq := rfl
@[simp] theorem afterSample_busy (l : Line) (v : Level) (s : State) : (afterSample l v s).busy = s.busy := rfl
@[simp] theorem afterSample_ready (l : Line) (v : Level) (s : State) : (afterSample l v s).ready = s.ready := rfl
@[simp] theorem afterSample_ack (l : Line) (v : Level) (s : State) : (afterSample l v s).ack = s.ack := rfl
@[simp] theorem afterSample_cmdErr (l : Line) (v : Level) (s : State) : (afterSample l v s).cmdErr = s.cmdErr := rfl
@[simp] theorem afterSample_rxData (l : Line) (v : Level) (s : State) : (afterSample l v s).rxData = s.rxData := rfl
@[simp] theorem afterSample_trace (l : Line) (v : Level) (s : State) : (afterSample l v s).trace = s.trace ++ [.smp l v] := rfl
@[simp] theorem afterSample_peer (l : Line) (v : Level) (s : State) : (afterSample l v s).peer = s.peer.tail := rfl
@[simp] theorem afterSample_draws (l : Line) (v : Level) (s : State) : (afterSample l v s).draws = s.draws + 1 := rfl
@[simp] theorem afterSample_schedule (l : Line) (v : Level) (s : State) : (afterSample l v s).schedule = s.schedule := rfl
@[simp] theorem afterSample_hostLog (l : Line) (v : Level) (s : State) : (afterSample l v s).hostLog = s.hostLog := rfl

/-! ### The mark of a refusal (R17) -/

@[simp] theorem setCmdErr_sclDir (s : State) : (setCmdErr s).sclDir = s.sclDir := rfl
@[simp] theorem setCmdErr_sclOut (s : State) : (setCmdErr s).sclOut = s.sclOut := rfl
@[simp] theorem setCmdErr_sdaDir (s : State) : (setCmdErr s).sdaDir = s.sdaDir := rfl
@[simp] theorem setCmdErr_sdaOut (s : State) : (setCmdErr s).sdaOut = s.sdaOut := rfl
@[simp] theorem setCmdErr_ir (s : State) : (setCmdErr s).ir = s.ir := rfl
@[simp] theorem setCmdErr_seq (s : State) : (setCmdErr s).seq = s.seq := rfl
@[simp] theorem setCmdErr_busy (s : State) : (setCmdErr s).busy = s.busy := rfl
@[simp] theorem setCmdErr_ready (s : State) : (setCmdErr s).ready = s.ready := rfl
@[simp] theorem setCmdErr_ack (s : State) : (setCmdErr s).ack = s.ack := rfl
@[simp] theorem setCmdErr_cmdErr (s : State) : (setCmdErr s).cmdErr = true := rfl
@[simp] theorem setCmdErr_rxData (s : State) : (setCmdErr s).rxData = s.rxData := rfl
@[simp] theorem setCmdErr_trace (s : State) : (setCmdErr s).trace = s.trace := rfl
@[simp] theorem setCmdErr_peer (s : State) : (setCmdErr s).peer = s.peer := rfl
@[simp] theorem setCmdErr_draws (s : State) : (setCmdErr s).draws = s.draws := rfl
@[simp] theorem setCmdErr_schedule (s : State) : (setCmdErr s).schedule = s.schedule := rfl
@[simp] theorem setCmdErr_hostLog (s : State) : (setCmdErr s).hostLog = s.hostLog := rfl

/-! ### A command accepted (R66) -/

@[simp] theorem acceptCommand_sclDir (w : Word) (s : State) : (acceptCommand w s).sclDir = s.sclDir := rfl
@[simp] theorem acceptCommand_sclOut (w : Word) (s : State) : (acceptCommand w s).sclOut = s.sclOut := rfl
@[simp] theorem acceptCommand_sdaDir (w : Word) (s : State) : (acceptCommand w s).sdaDir = s.sdaDir := rfl
@[simp] theorem acceptCommand_sdaOut (w : Word) (s : State) : (acceptCommand w s).sdaOut = s.sdaOut := rfl
@[simp] theorem acceptCommand_ir (w : Word) (s : State) : (acceptCommand w s).ir = w := rfl
@[simp] theorem acceptCommand_seq (w : Word) (s : State) : (acceptCommand w s).seq = 0#6 := rfl
@[simp] theorem acceptCommand_busy (w : Word) (s : State) : (acceptCommand w s).busy = true := rfl
@[simp] theorem acceptCommand_ready (w : Word) (s : State) : (acceptCommand w s).ready = s.ready := rfl
@[simp] theorem acceptCommand_ack (w : Word) (s : State) : (acceptCommand w s).ack = s.ack := rfl
@[simp] theorem acceptCommand_cmdErr (w : Word) (s : State) : (acceptCommand w s).cmdErr = s.cmdErr := rfl
@[simp] theorem acceptCommand_rxData (w : Word) (s : State) : (acceptCommand w s).rxData = s.rxData := rfl
@[simp] theorem acceptCommand_trace (w : Word) (s : State) : (acceptCommand w s).trace = s.trace := rfl
@[simp] theorem acceptCommand_peer (w : Word) (s : State) : (acceptCommand w s).peer = s.peer := rfl
@[simp] theorem acceptCommand_draws (w : Word) (s : State) : (acceptCommand w s).draws = s.draws := rfl
@[simp] theorem acceptCommand_schedule (w : Word) (s : State) : (acceptCommand w s).schedule = s.schedule := rfl
@[simp] theorem acceptCommand_hostLog (w : Word) (s : State) : (acceptCommand w s).hostLog = s.hostLog := rfl

/-! ### A reply recorded -/

@[simp] theorem reply_sclDir (r : HostReply) (s : State) : (reply r s).sclDir = s.sclDir := rfl
@[simp] theorem reply_sclOut (r : HostReply) (s : State) : (reply r s).sclOut = s.sclOut := rfl
@[simp] theorem reply_sdaDir (r : HostReply) (s : State) : (reply r s).sdaDir = s.sdaDir := rfl
@[simp] theorem reply_sdaOut (r : HostReply) (s : State) : (reply r s).sdaOut = s.sdaOut := rfl
@[simp] theorem reply_ir (r : HostReply) (s : State) : (reply r s).ir = s.ir := rfl
@[simp] theorem reply_seq (r : HostReply) (s : State) : (reply r s).seq = s.seq := rfl
@[simp] theorem reply_busy (r : HostReply) (s : State) : (reply r s).busy = s.busy := rfl
@[simp] theorem reply_ready (r : HostReply) (s : State) : (reply r s).ready = s.ready := rfl
@[simp] theorem reply_ack (r : HostReply) (s : State) : (reply r s).ack = s.ack := rfl
@[simp] theorem reply_cmdErr (r : HostReply) (s : State) : (reply r s).cmdErr = s.cmdErr := rfl
@[simp] theorem reply_rxData (r : HostReply) (s : State) : (reply r s).rxData = s.rxData := rfl
@[simp] theorem reply_trace (r : HostReply) (s : State) : (reply r s).trace = s.trace := rfl
@[simp] theorem reply_peer (r : HostReply) (s : State) : (reply r s).peer = s.peer := rfl
@[simp] theorem reply_draws (r : HostReply) (s : State) : (reply r s).draws = s.draws := rfl
@[simp] theorem reply_schedule (r : HostReply) (s : State) : (reply r s).schedule = s.schedule := rfl
@[simp] theorem reply_hostLog (r : HostReply) (s : State) : (reply r s).hostLog = s.hostLog ++ [r] := rfl

/-! ### Reset (R130) -/

@[simp] theorem resetEngine_sclDir (ok : Bool) (s : State) : (resetEngine ok s).sclDir = .inp := rfl
@[simp] theorem resetEngine_sclOut (ok : Bool) (s : State) : (resetEngine ok s).sclOut = .high := rfl
@[simp] theorem resetEngine_sdaDir (ok : Bool) (s : State) : (resetEngine ok s).sdaDir = .inp := rfl
@[simp] theorem resetEngine_sdaOut (ok : Bool) (s : State) : (resetEngine ok s).sdaOut = .high := rfl
@[simp] theorem resetEngine_ir (ok : Bool) (s : State) : (resetEngine ok s).ir = 0x0000#16 := rfl
@[simp] theorem resetEngine_seq (ok : Bool) (s : State) : (resetEngine ok s).seq = 0#6 := rfl
@[simp] theorem resetEngine_busy (ok : Bool) (s : State) : (resetEngine ok s).busy = false := rfl
@[simp] theorem resetEngine_ready (ok : Bool) (s : State) : (resetEngine ok s).ready = ok := rfl
@[simp] theorem resetEngine_ack (ok : Bool) (s : State) : (resetEngine ok s).ack = false := rfl
@[simp] theorem resetEngine_cmdErr (ok : Bool) (s : State) : (resetEngine ok s).cmdErr = false := rfl
@[simp] theorem resetEngine_rxData (ok : Bool) (s : State) : (resetEngine ok s).rxData = 0x00#8 := rfl
@[simp] theorem resetEngine_trace (ok : Bool) (s : State) : (resetEngine ok s).trace = [] := rfl
@[simp] theorem resetEngine_peer (ok : Bool) (s : State) : (resetEngine ok s).peer = s.peer := rfl
@[simp] theorem resetEngine_draws (ok : Bool) (s : State) : (resetEngine ok s).draws = s.draws := rfl
@[simp] theorem resetEngine_schedule (ok : Bool) (s : State) : (resetEngine ok s).schedule = s.schedule := rfl
@[simp] theorem resetEngine_hostLog (ok : Bool) (s : State) : (resetEngine ok s).hostLog = s.hostLog := rfl

/-! ### A command placed -/

@[simp] theorem placeCommand_sclDir (w : Word) (s : State) : (placeCommand w s).sclDir = s.sclDir := rfl
@[simp] theorem placeCommand_sclOut (w : Word) (s : State) : (placeCommand w s).sclOut = s.sclOut := rfl
@[simp] theorem placeCommand_sdaDir (w : Word) (s : State) : (placeCommand w s).sdaDir = s.sdaDir := rfl
@[simp] theorem placeCommand_sdaOut (w : Word) (s : State) : (placeCommand w s).sdaOut = s.sdaOut := rfl
@[simp] theorem placeCommand_ir (w : Word) (s : State) : (placeCommand w s).ir = w := rfl
@[simp] theorem placeCommand_seq (w : Word) (s : State) : (placeCommand w s).seq = 0#6 := rfl
@[simp] theorem placeCommand_busy (w : Word) (s : State) : (placeCommand w s).busy = true := rfl
@[simp] theorem placeCommand_ready (w : Word) (s : State) : (placeCommand w s).ready = true := rfl
@[simp] theorem placeCommand_ack (w : Word) (s : State) : (placeCommand w s).ack = s.ack := rfl
@[simp] theorem placeCommand_cmdErr (w : Word) (s : State) : (placeCommand w s).cmdErr = s.cmdErr := rfl
@[simp] theorem placeCommand_rxData (w : Word) (s : State) : (placeCommand w s).rxData = s.rxData := rfl
@[simp] theorem placeCommand_trace (w : Word) (s : State) : (placeCommand w s).trace = s.trace := rfl
@[simp] theorem placeCommand_peer (w : Word) (s : State) : (placeCommand w s).peer = s.peer := rfl
@[simp] theorem placeCommand_draws (w : Word) (s : State) : (placeCommand w s).draws = s.draws := rfl
@[simp] theorem placeCommand_schedule (w : Word) (s : State) : (placeCommand w s).schedule = [] := rfl
@[simp] theorem placeCommand_hostLog (w : Word) (s : State) : (placeCommand w s).hostLog = s.hostLog := rfl

/-! ### The end of a micro-op (R28) -/

@[simp] theorem advance_sclDir (n : Nat) (s : State) : (advance n s).sclDir = s.sclDir := by unfold advance; split <;> rfl
@[simp] theorem advance_sclOut (n : Nat) (s : State) : (advance n s).sclOut = s.sclOut := by unfold advance; split <;> rfl
@[simp] theorem advance_sdaDir (n : Nat) (s : State) : (advance n s).sdaDir = s.sdaDir := by unfold advance; split <;> rfl
@[simp] theorem advance_sdaOut (n : Nat) (s : State) : (advance n s).sdaOut = s.sdaOut := by unfold advance; split <;> rfl
@[simp] theorem advance_ir (n : Nat) (s : State) : (advance n s).ir = s.ir := by unfold advance; split <;> rfl
@[simp] theorem advance_ready (n : Nat) (s : State) : (advance n s).ready = s.ready := by unfold advance; split <;> rfl
@[simp] theorem advance_ack (n : Nat) (s : State) : (advance n s).ack = s.ack := by unfold advance; split <;> rfl
@[simp] theorem advance_cmdErr (n : Nat) (s : State) : (advance n s).cmdErr = s.cmdErr := by unfold advance; split <;> rfl
@[simp] theorem advance_rxData (n : Nat) (s : State) : (advance n s).rxData = s.rxData := by unfold advance; split <;> rfl
@[simp] theorem advance_trace (n : Nat) (s : State) : (advance n s).trace = s.trace := by unfold advance; split <;> rfl
@[simp] theorem advance_peer (n : Nat) (s : State) : (advance n s).peer = s.peer := by unfold advance; split <;> rfl
@[simp] theorem advance_draws (n : Nat) (s : State) : (advance n s).draws = s.draws := by unfold advance; split <;> rfl
@[simp] theorem advance_schedule (n : Nat) (s : State) : (advance n s).schedule = s.schedule := by unfold advance; split <;> rfl
@[simp] theorem advance_hostLog (n : Nat) (s : State) : (advance n s).hostLog = s.hostLog := by unfold advance; split <;> rfl

theorem advance_last {n : Nat} {s : State} (h : s.seq.toNat + 1 = n) :
    advance n s = { s with seq := 0#6, busy := false } := by simp [advance, h]

theorem advance_inner {n : Nat} {s : State} (h : s.seq.toNat + 1 ≠ n) :
    advance n s = { s with seq := s.seq + 1#6 } := by simp [advance, h]

/-- Counting on does not wrap inside a command: the longest has 49 micro-ops (R12). -/
theorem seq_succ_toNat {q : SeqNo} (h : q.toNat < 49) : (q + 1#6).toNat = q.toNat + 1 := by
  simp [BitVec.toNat_add]; omega

/-! ### Views by line -/

@[simp] theorem State.dir_scl (s : State) : s.dir .scl = s.sclDir := rfl
@[simp] theorem State.dir_sda (s : State) : s.dir .sda = s.sdaDir := rfl
@[simp] theorem State.latch_scl (s : State) : s.latch .scl = s.sclOut := rfl
@[simp] theorem State.latch_sda (s : State) : s.latch .sda = s.sdaOut := rfl

end Sys2Proof.Machine
end

