-- ==== Sys2Proof/Laws/Host.lean ====
section
/-! SUPPORT. What a host access can do, said once (R41, R42, R66). -/

namespace Sys2Proof.Machine

/-- A command write either leaves the mark of a refusal or accepts (R66). -/
theorem writeCmd_cases (w : Word) (s : State) :
    (∃ r, commandRefusal w s = some r ∧ writeCmd w s = reply (.refused r) (setCmdErr s)) ∨
    (commandRefusal w s = none ∧ writeCmd w s = reply .accepted (acceptCommand w s)) := by
  cases h : commandRefusal w s with
  | some r => exact .inl ⟨r, rfl, by simp [writeCmd, h]⟩
  | none => exact .inr ⟨rfl, by simp [writeCmd, h]⟩

/-- A word is accepted exactly when the engine is ready and idle and the word is a command (R66). -/
theorem commandRefusal_none_iff (w : Word) (s : State) :
    commandRefusal w s = none ↔ s.ready = true ∧ s.busy = false ∧ ∃ i, decode w = .command i := by
  unfold commandRefusal
  cases hr : s.ready <;> cases hb : s.busy <;> cases hd : decode w <;> simp

/-- All a host access can do when it answers a next state (R41, R42, R66). -/
theorem hostStep_next_cases {a : HostAction} {s t : State} (h : hostStep a s = .next t) :
    ((∀ w, a ≠ .regWrite 0 w) ∧ ∃ r, t = reply r s) ∨
    (∃ w r, a = .regWrite 0 w ∧ commandRefusal w s = some r ∧ t = reply (.refused r) (setCmdErr s)) ∨
    (∃ w, a = .regWrite 0 w ∧ commandRefusal w s = none ∧ t = reply .accepted (acceptCommand w s)) := by
  cases a with
  | regRead n =>
    unfold hostStep at h
    cases hv : regRead n s with
    | none => simp [hv] at h
    | some v => exact .inl ⟨by simp, .value n v, by simpa [hv] using h.symm⟩
  | regWrite n v =>
    unfold hostStep at h
    by_cases h0 : n = 0
    · subst h0
      obtain ⟨r, hr, hw⟩ | ⟨hr, hw⟩ := writeCmd_cases v s
      · exact .inr (.inl ⟨v, r, rfl, hr, by simpa [hw] using h.symm⟩)
      · exact .inr (.inr ⟨v, rfl, hr, by simpa [hw] using h.symm⟩)
    · by_cases h3 : n ≤ 3
      · exact .inl ⟨by simp [h0], .ignored, by simpa [h0, h3] using h.symm⟩
      · simp [h0, h3] at h

/-- A host access never faults (R125). -/
theorem hostStep_not_fault {a : HostAction} {s : State} {f : Fault} : hostStep a s ≠ .fault f := by
  cases a with
  | regRead n => cases hv : regRead n s <;> simp [hostStep, hv]
  | regWrite n v => simp only [hostStep]; split <;> [skip; split] <;> simp

/-- A host access is refused only at a register number of 4 or more (U7). -/
theorem hostStep_refused {a : HostAction} {s : State} {r : Refusal} (h : hostStep a s = .refused r) :
    ∃ n, 4 ≤ n ∧ r = .noSuchRegister n ∧ (a = .regRead n ∨ ∃ v, a = .regWrite n v) := by
  cases a with
  | regRead n =>
    unfold hostStep at h
    match n, h with
    | 0, h => simp [regRead] at h
    | 1, h => simp [regRead] at h
    | 2, h => simp [regRead] at h
    | 3, h => simp [regRead] at h
    | k + 4, h => exact ⟨k + 4, by omega, by simpa [regRead] using h.symm, .inl rfl⟩
  | regWrite n v =>
    simp only [hostStep] at h
    split at h
    · cases h
    · split at h
      · cases h
      · next h3 => exact ⟨n, by omega, by simpa using h.symm, .inr ⟨v, rfl⟩⟩

end Sys2Proof.Machine
end

