-- ==== Sys2Proof/Laws/Ops.lean ====
section
/-! SUPPORT. What each shared operation of the engine can do, said once: the line operations, a micro-op, one micro-op of a command. -/

namespace Sys2Proof.Machine

/-- `Drive` on an output (R45). -/
theorem drive_out {l : Line} {v : Level} {s : State} (h : s.dir l = .out) :
    drive l v s = .next ((s.putLatch l v).emit (.drv l v)) := by simp [drive, h]

/-- `Drive` on an input (R45, R112). -/
theorem drive_inp {l : Line} {v : Level} {s : State} (h : s.dir l = .inp) :
    drive l v s = .fault (.driveWhileInput l s.ir s.seq) := by simp [drive, h]

/-- A released line shows what the peer leaves on it (R47). -/
theorem sampleValue_released {l : Line} {s : State} (h : s.dir l = .inp) :
    sampleValue l s = if s.peerPullAt 0 then .low else .high := by simp [sampleValue, level, h]

/-- The peer's answers after one has been used up. -/
theorem peerPullAt_afterSample (l : Line) (v : Level) (s : State) (k : Nat) :
    (afterSample l v s).peerPullAt k = s.peerPullAt (k + 1) := by
  simp only [State.peerPullAt, afterSample_peer, afterSample_draws, List.getElem?_tail]
  rw [Nat.add_assoc, Nat.add_comm 1 k]

/-- All a micro-op can do when it answers a next state (R67). -/
theorem perform_next_cases {u : MicroOp} {s t : State} (h : perform u s = .next t) :
    (∃ l d, u = .setDir l d ∧ t = (s.putDir l d).emit (.dir l d)) ∨
    (∃ l v, u = .drive l v ∧ s.dir l = .out ∧ t = (s.putLatch l v).emit (.drv l v)) ∨
    (u = .delay ∧ t = s.emit .dly) ∨
    (u = .releaseAndClear ∧ t = { (s.putDir .sda .inp).emit (.dir .sda .inp) with rxData := 0x00#8 }) ∨
    (u = .sampleAck ∧
      t = { afterSample .sda (sampleValue .sda s) s with ack := ackOf (sampleValue .sda s) }) ∨
    (u = .sampleRx ∧
      t = { afterSample .sda (sampleValue .sda s) s with rxData := shiftIn s.rxData (sampleValue .sda s) }) ∨
    (u = .reclaimAndDiag ∧ s.ack = true ∧ t = (s.putDir .sda .out).emit (.dir .sda .out)) ∨
    (u = .reclaimAndDiag ∧ s.ack = false ∧
      t = ((s.putDir .sda .out).emit (.dir .sda .out)).emit .diagNack) := by
  cases u with
  | setDir l d => exact .inl ⟨l, d, rfl, by simpa [perform, setDir] using h.symm⟩
  | drive l v =>
    cases hd : s.dir l with
    | inp => simp [perform, drive, hd] at h
    | out => exact .inr (.inl ⟨l, v, rfl, hd, by simpa [perform, drive, hd] using h.symm⟩)
  | delay => exact .inr (.inr (.inl ⟨rfl, by simpa [perform, delay] using h.symm⟩))
  | releaseAndClear => exact .inr (.inr (.inr (.inl ⟨rfl, by simpa [perform, setDir] using h.symm⟩)))
  | sampleAck => exact .inr (.inr (.inr (.inr (.inl ⟨rfl, by simpa [perform] using h.symm⟩))))
  | sampleRx => exact .inr (.inr (.inr (.inr (.inr (.inl ⟨rfl, by simpa [perform] using h.symm⟩)))))
  | reclaimAndDiag =>
    cases ha : s.ack
    · exact .inr (.inr (.inr (.inr (.inr (.inr (.inr
        ⟨rfl, rfl, by simpa [perform, setDir, diagNack, ha] using h.symm⟩))))))
    · exact .inr (.inr (.inr (.inr (.inr (.inr (.inl
        ⟨rfl, rfl, by simpa [perform, setDir, ha] using h.symm⟩))))))

/-- A micro-op faults only as a drive of an input line (R112). -/
theorem perform_fault {u : MicroOp} {s : State} {f : Fault} (h : perform u s = .fault f) :
    ∃ l v, u = .drive l v ∧ s.dir l = .inp ∧ f = .driveWhileInput l s.ir s.seq := by
  cases u with
  | drive l v =>
    cases hd : s.dir l with
    | inp => exact ⟨l, v, rfl, hd, by simpa [perform, drive, hd] using h.symm⟩
    | out => simp [perform, drive, hd] at h
  | _ => simp [perform] at h

/-- No micro-op is refused (R125). -/
theorem perform_not_refused {u : MicroOp} {s : State} {r : Refusal} : perform u s ≠ .refused r := by
  cases u with
  | drive l v => cases hd : s.dir l <;> simp [perform, drive, hd]
  | _ => simp [perform]

/-- One micro-op of a command, when the table names it and it completes (R28). -/
theorem runMicroOp_of {n : Nat} {table : Nat → Option MicroOp} {u : MicroOp} {s t : State}
    (hu : table s.seq.toNat = some u) (ht : perform u s = .next t) :
    runMicroOp n table s = .next (advance n t) := by simp [runMicroOp, hu, ht]

theorem runMicroOp_next {n : Nat} {table : Nat → Option MicroOp} {s t : State}
    (h : runMicroOp n table s = .next t) :
    ∃ u v, table s.seq.toNat = some u ∧ perform u s = .next v ∧ t = advance n v := by
  unfold runMicroOp at h
  split at h
  · cases h
  · next u hu =>
    split at h
    · next v hv => exact ⟨u, v, hu, hv, by simpa using h.symm⟩
    · cases h
    · cases h

theorem runMicroOp_fault {n : Nat} {table : Nat → Option MicroOp} {s : State} {f : Fault}
    (h : runMicroOp n table s = .fault f) :
    ∃ u, table s.seq.toNat = some u ∧ perform u s = .fault f := by
  unfold runMicroOp at h
  split at h
  · cases h
  · next u hu =>
    split at h
    · cases h
    · next g hg => exact ⟨u, hu, by rw [hg, ← (by simpa using h : g = f)]⟩
    · cases h

theorem runMicroOp_refused {n : Nat} {table : Nat → Option MicroOp} {s : State} {r : Refusal}
    (h : runMicroOp n table s = .refused r) : table s.seq.toNat = none ∧ r = .noMicroOp s.seq := by
  unfold runMicroOp at h
  split at h
  · next hu => exact ⟨hu, by simpa using h.symm⟩
  · split at h
    · cases h
    · cases h
    · next hr => exact absurd hr perform_not_refused

end Sys2Proof.Machine
end

