-- ==== Sys2Proof/Laws/PerInstr.lean ====
section
/-! SUPPORT. What holds of every command as syntax, one lemma per constructor. -/

namespace Sys2Proof.Laws.EncodingWellFormed

/-- The word of a command, cut into its two fields, is a well-formed raw command (R61, R63). -/
def Statement (i : Instr) : Prop :=
  (RawCommand.ofWord (encode i)).wellFormed = true

theorem start : Statement .start := by unfold Statement; decide

theorem stop : Statement .stop := by unfold Statement; decide

theorem writeByte (b : Byte) : Statement (.writeByte b) := by
  have hop : (RawCommand.ofWord (encode (.writeByte b))).op = 0x03#8 := by
    apply BitVec.eq_of_getLsbD_eq
    intro i hi
    have h : (0x03#8 ++ b : BitVec (8 + 8)).getLsbD (8 + i) = (0x03#8).getLsbD i := by
      rw [BitVec.getLsbD_append]; simp
    simpa [RawCommand.ofWord, encode, hi] using h
  simp [Statement, hop, RawCommand.wellFormed, RawCommand.opKnown, RawCommand.argFits]

theorem waitAck : Statement .waitAck := by unfold Statement; decide

theorem readByte (a : Bool) : Statement (.readByte a) := by unfold Statement; cases a <;> decide

end Sys2Proof.Laws.EncodingWellFormed
end

