-- ==== Sys2Proof/Laws/Tables.lean ====
section
/-! SUPPORT. The micro-op tables: their lengths, and the rows of the two long ones by position (R67). -/

namespace Sys2Proof.Machine

/-- The micro-op table of a command (R67). -/
def uopTable : Instr → Nat → Option MicroOp
  | .start => startUop
  | .stop => stopUop
  | .writeByte b => writeByteUop b
  | .waitAck => waitAckUop
  | .readByte a => readByteUop a

/-- Every meaning is one micro-op of its command's table. -/
theorem exec_eq (i : Instr) (s : State) : exec i s = runMicroOp (stepCount i) (uopTable i) s := by
  cases i <;> rfl

/-- A table names a micro-op exactly below `N(op)` (R67, R68). -/
theorem uopTable_none_iff (i : Instr) (k : Nat) : uopTable i k = none ↔ stepCount i ≤ k := by
  cases i with
  | start =>
    by_cases h : k < 8
    · interval_cases k <;> simp [uopTable, startUop, stepCount]
    · obtain ⟨j, rfl⟩ := Nat.exists_eq_add_of_le' (Nat.le_of_not_lt h)
      simp [uopTable, startUop, stepCount]
  | stop =>
    by_cases h : k < 6
    · interval_cases k <;> simp [uopTable, stopUop, stepCount]
    · obtain ⟨j, rfl⟩ := Nat.exists_eq_add_of_le' (Nat.le_of_not_lt h)
      simp [uopTable, stopUop, stepCount]
  | waitAck =>
    by_cases h : k < 8
    · interval_cases k <;> simp [uopTable, waitAckUop, stepCount]
    · obtain ⟨j, rfl⟩ := Nat.exists_eq_add_of_le' (Nat.le_of_not_lt h)
      simp [uopTable, waitAckUop, stepCount]
  | writeByte b =>
    simp only [uopTable, writeByteUop, stepCount]
    split
    · simp; omega
    · split
      · split <;> simp <;> omega
      · simp; omega
  | readByte a =>
    by_cases h : k < 47
    · by_cases h0 : k = 0
      · simp [uopTable, readByteUop, stepCount, h0]
      · by_cases h1 : k ≤ 40
        · simp only [uopTable, readByteUop, stepCount, h0, h1, if_true, if_false]
          split <;> simp <;> omega
        · have : 41 ≤ k := by omega
          interval_cases k <;> simp [uopTable, readByteUop, stepCount]
    · obtain ⟨j, rfl⟩ := Nat.exists_eq_add_of_le' (Nat.le_of_not_lt h)
      simp [uopTable, readByteUop, stepCount]

/-- A micro-op of a table lies inside its command (R12). -/
theorem lt_stepCount_of_uopTable {i : Instr} {k : Nat} {u : MicroOp} (h : uopTable i k = some u) :
    k < stepCount i := by
  by_contra hk
  rw [(uopTable_none_iff i k).2 (Nat.le_of_not_lt hk)] at h
  cases h

/-- The longest command has 49 micro-ops (R12). -/
theorem stepCount_le (i : Instr) : stepCount i ≤ 49 := by cases i <;> simp [stepCount]

/-- The rows of `WRITE_BYTE` by bit position (R67, R90). -/
theorem writeByteUop_rows (b : Byte) {k : Nat} (hk : k < 8) :
    writeByteUop b (1 + 6 * k) = some (.drive .sda (wireBit b k)) ∧
    writeByteUop b (2 + 6 * k) = some .delay ∧
    writeByteUop b (3 + 6 * k) = some (.drive .scl .high) ∧
    writeByteUop b (4 + 6 * k) = some .delay ∧
    writeByteUop b (5 + 6 * k) = some (.drive .scl .low) ∧
    writeByteUop b (6 + 6 * k) = some .delay := by
  interval_cases k <;> exact ⟨rfl, rfl, rfl, rfl, rfl, rfl⟩

/-- The rows of `READ_BYTE` by bit position (R67, R100). -/
theorem readByteUop_rows (a : Bool) {k : Nat} (hk : k < 8) :
    readByteUop a (1 + 5 * k) = some (.drive .scl .high) ∧
    readByteUop a (2 + 5 * k) = some .delay ∧
    readByteUop a (3 + 5 * k) = some .sampleRx ∧
    readByteUop a (4 + 5 * k) = some (.drive .scl .low) ∧
    readByteUop a (5 + 5 * k) = some .delay := by
  interval_cases k <;> exact ⟨rfl, rfl, rfl, rfl, rfl⟩

end Sys2Proof.Machine
end

