-- ==== Sys2Proof/Laws/Step.lean ====
section
/-! SUPPORT. One step, said once: what each turn can answer (R10, R28, R125), and runs of several steps. -/

namespace Sys2Proof.Machine

/-- The state a turn acts on differs from the state before only in the schedule. -/
theorem nextTurn_state (s : State) : (nextTurn s).2 = { s with schedule := s.schedule.tail } := by
  unfold nextTurn
  cases hs : s.schedule with
  | nil => cases s; simp_all
  | cons t rest => rfl

theorem nextTurn_nil {s : State} (h : s.schedule = []) : nextTurn s = (.engine, s) := by
  simp [nextTurn, h]

theorem nextTurn_cons {s : State} {t : Turn} {rest : List Turn} (h : s.schedule = t :: rest) :
    nextTurn s = (t, { s with schedule := rest }) := by
  simp [nextTurn, h]

/-- The engine's step with a command in flight (R28). -/
theorem engineStep_busy {s : State} {i : Instr} (hb : s.busy = true) (hd : decode s.ir = .command i) :
    engineStep s = exec i s := by simp [engineStep, hb, hd]

theorem engineStep_idle {s : State} (hb : s.busy = false) : engineStep s = .next s := by
  simp [engineStep, hb]

/-- All a step can be when it answers a next state, `p` being the state with the turn taken off. -/
theorem step_next_cases {s t : State} (h : step s = .next t) :
    ∃ p, p = { s with schedule := s.schedule.tail } ∧
      (((nextTurn s).1 = .engine ∧ s.busy = false ∧ t = p) ∨
       (∃ i u v, (nextTurn s).1 = .engine ∧ s.busy = true ∧ decode s.ir = .command i ∧
          uopTable i s.seq.toNat = some u ∧ perform u p = .next v ∧ t = advance (stepCount i) v) ∨
       (∃ a, (nextTurn s).1 = .host a ∧ hostStep a p = .next t) ∨
       (∃ ok, (nextTurn s).1 = .reset ok ∧ t = resetEngine ok p)) := by
  refine ⟨_, rfl, ?_⟩
  unfold step at h
  rw [nextTurn_state] at h
  cases ht : (nextTurn s).1 with
  | engine =>
    simp only [ht, takeTurn, engineStep] at h
    cases hb : s.busy with
    | false => exact .inl ⟨rfl, rfl, by simpa [hb] using h.symm⟩
    | true =>
      cases hd : decode s.ir with
      | reserved why => simp [hb, hd] at h
      | command i =>
        simp only [hb, hd, if_true, exec_eq] at h
        obtain ⟨u, v, hu, hv, rfl⟩ := runMicroOp_next h
        exact .inr (.inl ⟨i, u, v, rfl, rfl, rfl, hu, hv, rfl⟩)
  | host a => exact .inr (.inr (.inl ⟨a, rfl, by simpa [ht, takeTurn] using h⟩))
  | reset ok => exact .inr (.inr (.inr ⟨ok, rfl, by simpa [ht, takeTurn] using h.symm⟩))

/-- A step faults only as the engine's drive of an input line (R112). -/
theorem step_fault_cases {s : State} {f : Fault} (h : step s = .fault f) :
    ∃ i l v, (nextTurn s).1 = .engine ∧ s.busy = true ∧ decode s.ir = .command i ∧
      uopTable i s.seq.toNat = some (.drive l v) ∧ s.dir l = .inp ∧ f = .driveWhileInput l s.ir s.seq := by
  unfold step at h
  rw [nextTurn_state] at h
  cases ht : (nextTurn s).1 with
  | engine =>
    simp only [ht, takeTurn, engineStep] at h
    cases hb : s.busy with
    | false => simp [hb] at h
    | true =>
      cases hd : decode s.ir with
      | reserved why => simp [hb, hd] at h
      | command i =>
        simp only [hb, hd, if_true, exec_eq] at h
        obtain ⟨u, hu, hf⟩ := runMicroOp_fault h
        obtain ⟨l, v, rfl, hl, rfl⟩ := perform_fault hf
        exact ⟨i, l, v, rfl, rfl, rfl, hu, by cases l <;> exact hl, rfl⟩
  | host a => simp only [ht, takeTurn] at h; exact absurd h hostStep_not_fault
  | reset ok => simp [ht, takeTurn] at h

end Sys2Proof.Machine

namespace Sys2Proof.Safety

open Sys2Proof.Machine

@[simp] theorem run_zero (s : State) : run 0 s = .next s := rfl

theorem run_succ {k : Nat} {s t : State} (h : step s = .next t) : run (k + 1) s = run k t := by
  show Host.Core.run Sys2Proof.core (k + 1) s = _
  simp only [Host.Core.run, Sys2Proof.core, h]
  rfl

theorem run_succ_fault {k : Nat} {s : State} {f : Fault} (h : step s = .fault f) : run (k + 1) s = .fault f := by
  simp [run, Host.Core.run, Sys2Proof.core, h]

theorem run_succ_refused {k : Nat} {s : State} {r : Refusal} (h : step s = .refused r) :
    run (k + 1) s = .refused r := by
  simp [run, Host.Core.run, Sys2Proof.core, h]

/-- A run of `j + k` steps is a run of `j` and then one of `k`. -/
theorem run_add {j : Nat} (k : Nat) {s t : State} (h : run j s = .next t) : run (j + k) s = run k t := by
  induction j generalizing s with
  | zero => simp only [run_zero, Host.Outcome.next.injEq] at h; subst h; rw [Nat.zero_add]
  | succ j ih =>
    cases hu : step s with
    | next u =>
      rw [run_succ hu] at h
      rw [Nat.add_right_comm, run_succ hu]
      exact ih h
    | fault f => rw [run_succ_fault hu] at h; cases h
    | refused r => rw [run_succ_refused hu] at h; cases h

/-- While a command is in flight a step is one micro-op of it (R28). -/
theorem step_inFlight {i : Instr} {s : State} (h : inFlight i s) : step s = exec i s := by
  obtain ⟨hb, hd, hs⟩ := h
  unfold step
  rw [nextTurn_nil hs]
  exact engineStep_busy hb hd

/-- A micro-op that is not the last leaves the command in flight. -/
theorem inFlight_step {i : Instr} {s v : State} {u : MicroOp} (h : inFlight i s)
    (hu : uopTable i s.seq.toNat = some u) (hv : perform u s = .next v) (hq : v.seq = s.seq)
    (hf : inFlight i v) (hl : s.seq.toNat + 1 ≠ stepCount i) :
    step s = .next { v with seq := s.seq + 1#6 } ∧ inFlight i { v with seq := s.seq + 1#6 } := by
  refine ⟨?_, hf⟩
  rw [step_inFlight h, exec_eq, runMicroOp_of hu hv, advance_inner (by rwa [hq]), hq]

end Sys2Proof.Safety
end

