-- ==== Sys2Proof/Tests/Slice0.lean ====
section
/-! SUPPORT. The model's own tests: words written out from the encodings, the vectors of spec/95_test_vectors.md one step or one
access at a time, the checks of WellFormed refusing ill-formed terms, and a witness for the hypotheses of every statement. -/

namespace Sys2Proof.Tests

open Sys2Proof Sys2Proof.Machine Sys2Proof.Safety

/-- The state after a step, if it is a next state. -/
def after (x : Host.Outcome State Fault Refusal) : Option State :=
  match x with
  | .next s => some s
  | _ => none

/-- The fault of a step. -/
def faultOf (x : Host.Outcome State Fault Refusal) : Option Fault :=
  match x with
  | .fault f => some f
  | _ => none

/-- The refusal of a step. -/
def refusalOf (x : Host.Outcome State Fault Refusal) : Option Refusal :=
  match x with
  | .refused r => some r
  | _ => none

/-- Micro-op `k` of `i` is the next one, both lines outputs at low, the peer about to pull, then not. -/
def at_ (i : Instr) (k : Nat) : State :=
  { State.resetWith true with
    sclDir := .out, sclOut := .low, sdaDir := .out, sdaOut := .low,
    ir := encode i, seq := BitVec.ofNat 6 k, busy := true, peer := [true, false] }

/-- The same with the data line released. -/
def released (i : Instr) (k : Nat) : State :=
  { at_ i k with sdaDir := .inp }

/-- Micro-op `k` of `i` is the next one, both lines inputs as after reset. -/
def fresh (i : Instr) (k : Nat) : State :=
  { State.resetWith true with ir := encode i, seq := BitVec.ofNat 6 k, busy := true }

/-- At a boundary after `START`. -/
def idle : State :=
  { at_ .start 0 with busy := false }

/-! ## Encoding (R63, R64; vectors of section 2.1) -/

theorem test_decode_start : decode 0b0000000100000000#16 = .command .start := by decide
theorem test_decode_stop : decode 0b0000001000000000#16 = .command .stop := by decide
theorem test_decode_write_byte : decode 0b0000001110100101#16 = .command (.writeByte 0b10100101#8) := by decide
theorem test_decode_wait_ack : decode 0b0000010000000000#16 = .command .waitAck := by decide
theorem test_decode_read_byte_ack : decode 0b0000010100000001#16 = .command (.readByte true) := by decide
theorem test_decode_read_byte_nack : decode 0b0000010100000000#16 = .command (.readByte false) := by decide

theorem test_decode_reserved_op : decode 0x0000#16 = .reserved .opUnknown ∧ decode 0x0001#16 = .reserved .opUnknown ∧
    decode 0x0600#16 = .reserved .opUnknown ∧ decode 0x8100#16 = .reserved .opUnknown ∧
    decode 0xFFFF#16 = .reserved .opUnknown := by decide
theorem test_decode_reserved_arg : decode 0x0101#16 = .reserved .argNotZero ∧ decode 0x0280#16 = .reserved .argNotZero ∧
    decode 0x0401#16 = .reserved .argNotZero ∧ decode 0x0502#16 = .reserved .argNotZero ∧
    decode 0x05FF#16 = .reserved .argNotZero := by decide

theorem test_encode_words : encode .start = 0x0100#16 ∧ encode .stop = 0x0200#16 ∧
    encode (.writeByte 0xA5#8) = 0x03A5#16 ∧ encode .waitAck = 0x0400#16 ∧
    encode (.readByte true) = 0x0501#16 ∧ encode (.readByte false) = 0x0500#16 := by decide

theorem test_table_word_rows : decodeTableWord 16 0x0100 = some .start ∧ decodeTableWord 16 0x0200 = some .stop ∧
    decodeTableWord 16 0x0300 = some (.writeByte 0x00#8) ∧ decodeTableWord 16 0x0400 = some .waitAck ∧
    decodeTableWord 16 0x0500 = some (.readByte false) ∧ decodeTableWord 16 0x0600 = none := by decide

/-- R69. -/
theorem test_render : Instr.render .start = "START" ∧ Instr.render (.writeByte 0xA5#8) = "WRITE_BYTE 0xA5" ∧
    Instr.render (.readByte true) = "READ_BYTE ACK" ∧ Instr.render (.readByte false) = "READ_BYTE NACK" := by decide

/-! ## WellFormed: one ill-formed term for each check, refused -/

theorem test_illformed_op_zero : ({ op := 0x00#8, arg := 0x00#8 } : RawCommand).wellFormed = false := by decide
theorem test_illformed_op_six : ({ op := 0x06#8, arg := 0x00#8 } : RawCommand).wellFormed = false := by decide
theorem test_illformed_start_arg : ({ op := 0x01#8, arg := 0x01#8 } : RawCommand).wellFormed = false := by decide
theorem test_illformed_stop_arg : ({ op := 0x02#8, arg := 0x80#8 } : RawCommand).wellFormed = false := by decide
theorem test_illformed_wait_ack_arg : ({ op := 0x04#8, arg := 0x01#8 } : RawCommand).wellFormed = false := by decide
theorem test_illformed_read_byte_arg : ({ op := 0x05#8, arg := 0x02#8 } : RawCommand).wellFormed = false := by decide
theorem test_wellformed_write_byte : ({ op := 0x03#8, arg := 0xFF#8 } : RawCommand).wellFormed = true := by decide

/-! ## The commands, one micro-op at a time (sections 2.3 to 2.8) -/

/-- V-S1 step 0: `LINES` reads `0x0E`. -/
theorem test_start_step0 : (after (step (fresh .start 0))).map (fun t => (linesByte t, t.seq, t.trace))
    = some (0x0E#8, 1#6, [.dir .sda .out]) := by decide

/-- `START` step 7 ends the command: `LINES` `0x05`, `BUSY` 0. -/
theorem test_start_step7 : (after (step { at_ .start 7 with sclOut := .high })).map
    (fun t => (linesByte t, t.seq, t.busy, t.trace)) = some (0x05#8, 0#6, false, [.drv .scl .low]) := by decide

/-- V-T2 step 4: `LINES` `0x0F`. -/
theorem test_stop_step4 : (after (step { at_ .stop 4 with sclOut := .high })).map (fun t => (linesByte t, t.trace))
    = some (0x0F#8, [.drv .sda .high]) := by decide

/-- V-F1: `STOP` step 2 faults while the clock line is an input. -/
theorem test_stop_fault : faultOf (step { fresh .stop 2 with sdaDir := .out, sdaOut := .low })
    = some (.driveWhileInput .scl 0x0200#16 2#6) := by decide

/-- V-W3: step 1 drives `IR[7]`, step 7 `IR[6]`, step 43 `IR[0]`. -/
theorem test_write_byte_bits : [1, 7, 43].map (fun k => (after (step (at_ (.writeByte 0xA5#8) k))).map State.trace)
    = [some [.drv .sda .high], some [.drv .sda .low], some [.drv .sda .high]] := by decide

/-- V-W3 step 48 is the last `DLY`. -/
theorem test_write_byte_last : (after (step (at_ (.writeByte 0xA5#8) 48))).map (fun t => (t.busy, t.seq, t.trace))
    = some (false, 0#6, [.dly]) := by decide

/-- V-A1 step 4: a pulled line reads `low` and sets `ACK`. -/
theorem test_wait_ack_sample : (after (step (released .waitAck 4))).map (fun t => (t.ack, t.trace, t.peer, t.draws))
    = some (true, [.smp .sda .low], [false], 1) := by decide

/-- V-A2 step 7: a NACK adds one diagnostic, after the line is reclaimed. -/
theorem test_wait_ack_nack : (after (step (released .waitAck 7))).map (fun t => (t.busy, t.sdaDir, t.trace))
    = some (false, .out, [.dir .sda .out, .diagNack]) := by decide

/-- V-R1, third sample: `0x01` and a `low` sample give `0x02`. -/
theorem test_read_byte_shift : (after (step { released (.readByte true) 13 with rxData := 0x01#8 })).map
    (fun t => (t.rxData, t.trace)) = some (0x02#8, [.smp .sda .low]) := by decide

/-- R102: step 42 drives `low` for ACK and `high` for NACK. -/
theorem test_read_byte_ack_level : [true, false].map (fun a => (after (step (at_ (.readByte a) 42))).map State.trace)
    = [some [.drv .sda .low], some [.drv .sda .high]] := by decide

/-! ## The host's side (section 2.2, 2.9) -/

/-- V-C1: accepted, `STATUS` `0x03`, `LINES` still `0x0A`. -/
theorem test_accept : (after (hostStep (.regWrite 0 0x0100#16) (State.resetWith true))).map
    (fun t => (t.ir, t.seq, statusByte t, linesByte t, t.hostLog))
    = some (0x0100#16, 0#6, 0x03#8, 0x0A#8, [.accepted]) := by decide

/-- V-C2, V-C6, V-C8: the three refusals, in the order of the checks. -/
theorem test_refuse_reserved : (after (hostStep (.regWrite 0 0x0000#16) (State.resetWith true))).map
    (fun t => (statusByte t, t.ir, t.hostLog)) = some (0x0A#8, 0x0000#16, [.refused .reserved]) := by decide
theorem test_refuse_busy : (after (hostStep (.regWrite 0 0xFFFF#16) (fresh .start 1))).map
    (fun t => (statusByte t, t.ir, t.seq, t.hostLog)) = some (0x0B#8, 0x0100#16, 1#6, [.refused .busy]) := by decide
theorem test_refuse_not_ready : (after (hostStep (.regWrite 0 0x0000#16) (State.resetWith false))).map
    (fun t => (statusByte t, t.hostLog)) = some (0x08#8, [.refused .notReady]) := by decide

/-- V-C10 and U7. -/
theorem test_write_read_only : (after (hostStep (.regWrite 1 0x00FF#16) idle)).map (fun t => (statusByte t, linesByte t))
    = some (statusByte idle, linesByte idle) := by decide
theorem test_no_register_four : refusalOf (hostStep (.regRead 4) idle) = some (.noSuchRegister 4) := by decide

/-- V-X3, V-X4: a reset in the middle of a command clears every element and the trace. -/
theorem test_reset_inside_command : (after (step { at_ (.writeByte 0xA5#8) 4 with
      cmdErr := true, ack := true, rxData := 0x5A#8, trace := [.dly], schedule := [.reset true] })).map
    (fun t => ((t.ir, statusByte t, t.rxData), (linesByte t, t.seq, t.trace)))
    = some ((0x0000#16, 0x02#8, 0x00#8), (0x0A#8, 0#6, ([] : List Event))) := by decide

/-! ## A word placed for the next step runs as the first after reset -/

theorem test_fetch_runs_first : [0x0100, 0x0200, 0x03A5, 0x0400, 0x0501].map
      (fun w => (after (step (State.reset.withFetchWord 16 w))).map State.trace)
    = [some [.dir .sda .out], some [.dir .sda .out], some [.dir .sda .out], some [.dir .sda .inp],
       some [.dir .sda .inp]] := by decide

/-! ## Witnesses: for every statement with hypotheses, a state and operands that meet them together -/

theorem test_witness_ReservedWordsAreRefused :
    decode 0x0000#16 = .reserved .opUnknown ∧ decode 0x0502#16 = .reserved .argNotZero ∧
    idle.ready = true ∧ idle.busy = false := by decide

theorem test_witness_OperandAssembly :
    decode 0x0100#16 = .command .start ∧ decode 0x0200#16 = .command .stop ∧
    decode 0x0300#16 = .command (.writeByte 0x00#8) ∧ decode 0x03FF#16 = .command (.writeByte 0xFF#8) ∧
    decode 0x0400#16 = .command .waitAck ∧ decode 0x0500#16 = .command (.readByte false) ∧
    decode 0x0501#16 = .command (.readByte true) := by decide

theorem test_witness_EncodeOfDecode : decode 0x03FF#16 = .command (.writeByte 0xFF#8) := by decide

theorem test_witness_StepRunsDecodedCommand :
    (at_ .stop 0).busy = true ∧ decode (at_ .stop 0).ir = .command .stop ∧ (at_ .stop 0).schedule = [] ∧
    ({ at_ .stop 0 with schedule := [.engine] } : State).schedule = .engine :: [] := by decide

theorem test_witness_FetchedWordRunsNext : decodeTableWord 16 0x0501 = some (.readByte true) := by decide

theorem test_witness_TurnsOfTheOtherAgents :
    ({ idle with schedule := [.host (.regRead 0)] } : State).schedule = .host (.regRead 0) :: [] ∧
    ({ idle with schedule := [.reset false] } : State).schedule = .reset false :: [] ∧
    idle.busy = false ∧ idle.schedule = [] ∧
    ({ idle with schedule := [.engine] } : State).schedule = .engine :: [] := by decide

theorem test_witness_StartMicroOps : ∀ k : Fin 8,
    (at_ .start k).seq = BitVec.ofNat 6 k ∧ (at_ .start k).sdaDir = .out ∧ (at_ .start k).sclDir = .out := by decide

theorem test_witness_StopMicroOps : ∀ k : Fin 6,
    (at_ .stop k).seq = BitVec.ofNat 6 k ∧ (at_ .stop k).sdaDir = .out ∧ (at_ .stop k).sclDir = .out := by decide

theorem test_witness_WriteByteMicroOps : ∀ k : Fin 49,
    (at_ (.writeByte 0xA5#8) k).seq.toNat = k ∧ (at_ (.writeByte 0xA5#8) k).sdaDir = .out ∧
    (at_ (.writeByte 0xA5#8) k).sclDir = .out := by decide

theorem test_witness_WaitAckMicroOps :
    (∀ k : Fin 8, (released .waitAck k).seq = BitVec.ofNat 6 k ∧ (released .waitAck k).sdaDir = .inp ∧
      (released .waitAck k).sclDir = .out ∧ (released .waitAck k).ack = false) ∧
    ({ released .waitAck 7 with ack := true } : State).seq = 7#6 ∧
    ({ released .waitAck 7 with ack := true } : State).ack = true := by decide

theorem test_witness_ReadByteMicroOps :
    (∀ k : Fin 41, (released (.readByte true) k).seq.toNat = k ∧ (released (.readByte true) k).sdaDir = .inp ∧
      (released (.readByte true) k).sclDir = .out) ∧
    (∀ k : Fin 6, (at_ (.readByte true) (41 + k)).seq.toNat = 41 + k ∧ (at_ (.readByte true) (41 + k)).sdaDir = .out ∧
      (at_ (.readByte true) (41 + k)).sclDir = .out) := by decide

theorem test_witness_SampleCompletesInEitherDirection :
    (released .waitAck 4).sdaDir = .inp ∧ (released .waitAck 4).seq = 4#6 ∧
    (at_ .waitAck 4).sdaDir = .out ∧ (at_ .waitAck 4).sdaOut = .low ∧ (at_ .waitAck 4).seq = 4#6 ∧
    ({ at_ .waitAck 4 with sdaOut := .high, peer := [false] } : State).sdaOut = .high ∧
    ({ at_ .waitAck 4 with sdaOut := .high, peer := [false] } : State).peerPullAt 0 = false ∧
    (released (.readByte true) 3).seq.toNat = 3 + 5 * 0 ∧ (released (.readByte true) 38).seq.toNat = 3 + 5 * 7 := by
  decide

theorem test_witness_EveryDriveOfAnInputFaults :
    (fresh .start 3).sclDir = .inp ∧ (fresh .start 3).sdaDir = .inp ∧
    (∀ k : Fin 49, (fresh (.writeByte 0xA5#8) k).seq.toNat = k ∧ (fresh (.writeByte 0xA5#8) k).sclDir = .inp ∧
      (fresh (.writeByte 0xA5#8) k).sdaDir = .inp) ∧
    (∀ k : Fin 8, (fresh .start k).seq.toNat = k ∧ (fresh .stop k).seq.toNat = k ∧ (fresh .waitAck k).seq.toNat = k) ∧
    (∀ k : Fin 47, (fresh (.readByte true) k).seq.toNat = k ∧ (fresh (.readByte true) k).sclDir = .inp) := by decide

theorem test_witness_NoMicroOpIsRefused :
    stepCount .stop ≤ (at_ .stop 6).seq.toNat ∧ (fresh .start 0).busy = true ∧
    decode ({ fresh .start 0 with ir := 0x0000#16 } : State).ir = .reserved .opUnknown ∧
    ({ fresh .start 0 with ir := 0x0000#16 } : State).schedule = [] := by decide

/-- For `StartCompletes`, `StartMakesStartCondition`: a fresh and a claimed state. -/
theorem test_witness_start_accepted : justAccepted .start (fresh .start 0) ∧ justAccepted .start (at_ .start 0) := by
  decide

/-- For `StopCompletes`, `StopMakesStopCondition`. -/
theorem test_witness_stop_accepted : justAccepted .stop (at_ .stop 0) ∧ (at_ .stop 0).sclDir = .out := by decide

/-- For `WriteByteCompletes`, `WriteByteDrivesBitsMsbFirst` (the clock low at entry). -/
theorem test_witness_write_byte_accepted : justAccepted (.writeByte 0xA5#8) (at_ (.writeByte 0xA5#8) 0) ∧
    (at_ (.writeByte 0xA5#8) 0).sclDir = .out ∧ (at_ (.writeByte 0xA5#8) 0).sclOut = .low := by decide

/-- For `WaitAckCompletes`, `OneDiagnosticPerNack`. -/
theorem test_witness_wait_ack_accepted : justAccepted .waitAck (at_ .waitAck 0) ∧ (at_ .waitAck 0).sclDir = .out := by
  decide

/-- For `ReadByteCompletes`, `ReadByteAcknowledgeLevel`, `CompletesAfterExactlyN`, `DelaysPerCommand`. -/
theorem test_witness_read_byte_accepted : ∀ a, justAccepted (.readByte a) (at_ (.readByte a) 0) ∧
    (at_ (.readByte a) 0).sclDir = .out ∧ (Instr.readByte a ≠ .start → (at_ (.readByte a) 0).sclDir = .out) := by decide

/-- The peer presents `0x5A`, bit 7 first (V-R1). -/
theorem test_witness_ReadByteReturnsThePeersByte :
    justAccepted (.readByte true)
      { at_ (.readByte true) 0 with peer := [true, false, true, false, false, true, false, true] } ∧
    ∀ k : Fin 8, releasedLevel
      (({ at_ (.readByte true) 0 with peer := [true, false, true, false, false, true, false, true] } : State).peerPullAt k)
      = if (0x5A#8).getLsbD (7 - k) then .high else .low := by decide

theorem test_witness_FaultsBeforeTheFirstStart : justAccepted .stop (fresh .stop 0) ∧ (fresh .stop 0).sclDir = .inp ∧
    justAccepted (.writeByte 0x00#8) (fresh (.writeByte 0x00#8) 0) ∧ justAccepted .waitAck (fresh .waitAck 0) ∧
    justAccepted (.readByte true) (fresh (.readByte true) 0) ∧ Instr.stop ≠ .start := by decide

/-- A boundary state of a run, a state inside a command, and the state in which `STOP` faults (V-F1) all meet the invariant. -/
theorem test_witness_runInv_boundary : runInv idle := by
  have hb : boundaryLines idle := by
    have hd : decode idle.ir = .command .start := by decide
    unfold boundaryLines
    rw [hd]
    decide
  exact ⟨fun h => absurd h (by decide), fun _ => ⟨by decide, hb⟩, fun h => absurd h (by decide)⟩

theorem test_witness_runInv_inside : runInv { at_ .start 7 with sclOut := .high } :=
  ⟨fun _ => by decide, fun h => absurd h (by decide),
    fun _ => ⟨.start, by decide, by decide, by unfold midLines; decide⟩⟩

theorem test_witness_runInv_fault :
    runInv { fresh .stop 2 with sdaDir := .out, sdaOut := .low } ∧
    faultOf (step { fresh .stop 2 with sdaDir := .out, sdaOut := .low })
      = some (.driveWhileInput .scl 0x0200#16 2#6) :=
  ⟨⟨fun _ => by decide, fun h => absurd h (by decide),
    fun _ => ⟨.stop, by decide, by decide, by unfold midLines; decide⟩⟩, by decide⟩

/-- For `NoFaultOnceClockIsClaimed`, `StepKeepsRunInv` and the whole-machine rules: a step of each kind that answers a next state. -/
theorem test_witness_steps : idle.sclDir = .out ∧
    (after (step idle)).isSome = true ∧
    (after (step (at_ .start 7))).map State.busy = some false ∧
    (after (step { idle with schedule := [.host (.regWrite 0 0x0200#16)] })).map State.busy = some true ∧
    (after (step { idle with schedule := [.reset true] })).map State.sclDir = some .inp := by decide

theorem test_witness_noReset : noReset idle ∧ noReset (at_ .start 7) := by
  constructor <;> unfold noReset <;> decide

theorem test_witness_OnlyRefusalIsNoSuchRegister :
    refusalOf (step { idle with schedule := [.host (.regRead 4)] }) = some (.noSuchRegister 4) ∧
    refusalOf (step { idle with schedule := [.host (.regWrite 4 0x0000#16)] }) = some (.noSuchRegister 4) := by decide

theorem test_witness_PeerDoesNotSteerTheEngine :
    alikeButPeer (released .waitAck 4) { released .waitAck 4 with peer := [false], ack := true } := by
  unfold alikeButPeer; decide

/-- For `AckWrittenOnlyByWaitAck`, `RxDataWrittenOnlyByReadByte`, `LineStateWrittenOnlyByItsMicroOps`: steps that do write. -/
theorem test_witness_writers :
    (after (step (released .waitAck 4))).map State.ack = some true ∧
    (after (step { released (.readByte true) 0 with rxData := 0xFF#8 })).map State.rxData = some 0x00#8 ∧
    (after (step (fresh .start 2))).map State.sclDir = some .out ∧
    (after (step (released .stop 0))).map State.sdaDir = some .out ∧
    (after (step (at_ .stop 2))).map State.sclOut = some .high ∧
    (after (step (at_ .start 1))).map State.sdaOut = some .high := by decide

theorem test_witness_ReadyOnlyFromReset : (State.resetWith false).ready = false := by decide

/-- For `IrWrittenOnlyByAcceptance` and `CommandAcceptance`, each of the four outcomes. -/
theorem test_witness_CommandAcceptance :
    commandRefusal 0x0100#16 (State.resetWith false) = some .notReady ∧
    commandRefusal 0x0100#16 (fresh .start 1) = some .busy ∧ (fresh .start 1).ready = true ∧
    commandRefusal 0x0000#16 idle = some .reserved ∧ commandRefusal 0x0100#16 idle = none ∧
    decode (at_ (.writeByte 0xA5#8) 0).ir = .command (.writeByte 0xA5#8) ∧
    decode (at_ (.readByte true) 0).ir = .command (.readByte true) := by decide

theorem test_witness_CommandSequencesComplete :
    ({ idle with schedule := issueAll [.stop] } : State).ready = true ∧
    ({ idle with schedule := issueAll [.stop] } : State).busy = false ∧
    ({ idle with schedule := issueAll [.stop] } : State).sclDir = .out ∧
    ({ idle with schedule := issueAll [.stop] } : State).schedule = issueAll [.stop] := by decide

/-- The grammar of R141: a read transaction and an empty one are legal, a `STOP` after a `STOP` is not. -/
theorem test_witness_LegalProgramsRunFromReset :
    legalProgram ([] ++ .start :: [.stop]) = true ∧
    legalProgram ([.start, .writeByte 0xA1#8] ++ .waitAck :: [.readByte false, .stop]) = true ∧
    legalProgram [.start, .stop, .stop] = false := by decide

theorem test_witness_frames :
    (after (exec .start (at_ .start 0))).isSome = true ∧ (after (exec .waitAck (at_ .waitAck 0))).isSome = true ∧
    (after (exec (.readByte true) (at_ (.readByte true) 0))).isSome = true ∧
    (after (hostStep (.regRead 3) (at_ .start 1))).isSome = true ∧ (at_ .start 1).busy = true := by decide

theorem test_witness_ResetAtAnyTime :
    ({ at_ .start 3 with schedule := [.reset true] } : State).schedule = .reset true :: [] := by decide

/-- For `DriveNeedsOutput` and `LevelTable`. -/
theorem test_witness_lines :
    idle.dir .scl = .out ∧ idle.dir .sda = .out ∧ idle.latch .sda = .low ∧
    (State.resetWith true).dir .scl = .inp ∧ (State.resetWith true).dir .sda = .inp ∧
    ({ idle with sdaOut := .high } : State).latch .sda = .high := by decide

theorem test_witness_EngineStepCountsSeq :
    (after (exec .stop (at_ .stop 5))).map (fun t => (t.seq, t.busy)) = some (0#6, false) ∧
    (after (exec .stop (at_ .stop 0))).map (fun t => (t.seq, t.busy)) = some (1#6, true) := by decide

end Sys2Proof.Tests
end

/-! ## The state's rules: what one micro-op, one row of a table and one step write -/

namespace Sys2Proof.Machine

/-! ### Writing either line (R19, R20)

The rules of `Laws/State.lean` speak of one line each; these say what a write of any line leaves unchanged. -/

@[simp] theorem State.putDir_ir (s : State) (l : Line) (d : Dir) : (s.putDir l d).ir = s.ir := by cases l <;> rfl
@[simp] theorem State.putDir_seq (s : State) (l : Line) (d : Dir) : (s.putDir l d).seq = s.seq := by cases l <;> rfl
@[simp] theorem State.putDir_busy (s : State) (l : Line) (d : Dir) : (s.putDir l d).busy = s.busy := by cases l <;> rfl
@[simp] theorem State.putDir_ready (s : State) (l : Line) (d : Dir) : (s.putDir l d).ready = s.ready := by
  cases l <;> rfl
@[simp] theorem State.putDir_ack (s : State) (l : Line) (d : Dir) : (s.putDir l d).ack = s.ack := by cases l <;> rfl
@[simp] theorem State.putDir_cmdErr (s : State) (l : Line) (d : Dir) : (s.putDir l d).cmdErr = s.cmdErr := by
  cases l <;> rfl
@[simp] theorem State.putDir_rxData (s : State) (l : Line) (d : Dir) : (s.putDir l d).rxData = s.rxData := by
  cases l <;> rfl
@[simp] theorem State.putDir_trace (s : State) (l : Line) (d : Dir) : (s.putDir l d).trace = s.trace := by
  cases l <;> rfl

@[simp] theorem State.putLatch_ir (s : State) (l : Line) (v : Level) : (s.putLatch l v).ir = s.ir := by
  cases l <;> rfl
@[simp] theorem State.putLatch_seq (s : State) (l : Line) (v : Level) : (s.putLatch l v).seq = s.seq := by
  cases l <;> rfl
@[simp] theorem State.putLatch_busy (s : State) (l : Line) (v : Level) : (s.putLatch l v).busy = s.busy := by
  cases l <;> rfl
@[simp] theorem State.putLatch_ready (s : State) (l : Line) (v : Level) : (s.putLatch l v).ready = s.ready := by
  cases l <;> rfl
@[simp] theorem State.putLatch_ack (s : State) (l : Line) (v : Level) : (s.putLatch l v).ack = s.ack := by
  cases l <;> rfl
@[simp] theorem State.putLatch_cmdErr (s : State) (l : Line) (v : Level) : (s.putLatch l v).cmdErr = s.cmdErr := by
  cases l <;> rfl
@[simp] theorem State.putLatch_rxData (s : State) (l : Line) (v : Level) : (s.putLatch l v).rxData = s.rxData := by
  cases l <;> rfl
@[simp] theorem State.putLatch_trace (s : State) (l : Line) (v : Level) : (s.putLatch l v).trace = s.trace := by
  cases l <;> rfl

/-! ### What a micro-op writes (R67) -/

/-- No micro-op touches the command in flight, the counter, `READY` or `CMDERR`; the counter moves afterwards (R28). -/
theorem perform_frame {u : MicroOp} {s t : State} (h : perform u s = .next t) :
    t.ir = s.ir ∧ t.seq = s.seq ∧ t.busy = s.busy ∧ t.ready = s.ready ∧ t.cmdErr = s.cmdErr := by
  rcases perform_next_cases h with ⟨_, _, rfl, rfl⟩ | ⟨_, _, rfl, _, rfl⟩ | ⟨rfl, rfl⟩ | ⟨rfl, rfl⟩ | ⟨rfl, rfl⟩ |
    ⟨rfl, rfl⟩ | ⟨rfl, _, rfl⟩ | ⟨rfl, _, rfl⟩ <;> simp

/-- `ACK` is written by the sample of `WAIT_ACK` alone (R16). -/
theorem perform_ack {u : MicroOp} {s t : State} (h : perform u s = .next t) :
    t.ack = s.ack ∨ u = .sampleAck := by
  rcases perform_next_cases h with ⟨_, _, rfl, rfl⟩ | ⟨_, _, rfl, _, rfl⟩ | ⟨rfl, rfl⟩ | ⟨rfl, rfl⟩ | ⟨rfl, rfl⟩ |
    ⟨rfl, rfl⟩ | ⟨rfl, _, rfl⟩ | ⟨rfl, _, rfl⟩ <;> simp

/-- `RXDATA` is written by the two micro-ops of `READ_BYTE` that clear it and shift into it (R18). -/
theorem perform_rxData {u : MicroOp} {s t : State} (h : perform u s = .next t) :
    t.rxData = s.rxData ∨ (u = .releaseAndClear ∧ t.rxData = 0x00#8) ∨ u = .sampleRx := by
  rcases perform_next_cases h with ⟨_, _, rfl, rfl⟩ | ⟨_, _, rfl, _, rfl⟩ | ⟨rfl, rfl⟩ | ⟨rfl, rfl⟩ | ⟨rfl, rfl⟩ |
    ⟨rfl, rfl⟩ | ⟨rfl, _, rfl⟩ | ⟨rfl, _, rfl⟩ <;> simp

/-- The clock line's direction is written by `SetDir(SCL, d)` alone, whose event is its direction (R19, R44). -/
theorem perform_sclDir {u : MicroOp} {s t : State} (h : perform u s = .next t) :
    t.sclDir = s.sclDir ∨ (u = .setDir .scl t.sclDir ∧ t.trace = s.trace ++ [.dir .scl t.sclDir]) := by
  rcases perform_next_cases h with ⟨l, _, rfl, rfl⟩ | ⟨l, _, rfl, _, rfl⟩ | ⟨rfl, rfl⟩ | ⟨rfl, rfl⟩ | ⟨rfl, rfl⟩ |
    ⟨rfl, rfl⟩ | ⟨rfl, _, rfl⟩ | ⟨rfl, _, rfl⟩
  · cases l <;> simp
  · cases l <;> simp
  all_goals simp

/-- The data line's direction changes only as the first event a micro-op emits says (R19, R44). -/
theorem perform_sdaDir {u : MicroOp} {s t : State} (h : perform u s = .next t) :
    t.sdaDir = s.sdaDir ∨ ∃ rest, t.trace = s.trace ++ .dir .sda t.sdaDir :: rest := by
  rcases perform_next_cases h with ⟨l, _, rfl, rfl⟩ | ⟨l, _, rfl, _, rfl⟩ | ⟨rfl, rfl⟩ | ⟨rfl, rfl⟩ | ⟨rfl, rfl⟩ |
    ⟨rfl, rfl⟩ | ⟨rfl, _, rfl⟩ | ⟨rfl, _, rfl⟩
  · cases l <;> simp
  · cases l <;> simp
  all_goals simp

/-- A latch is written by `Drive` of its line alone, whose event is the level (R20, R45). -/
theorem perform_latch {u : MicroOp} {s t : State} (l : Line) (h : perform u s = .next t) :
    t.latch l = s.latch l ∨ t.trace = s.trace ++ [.drv l (t.latch l)] := by
  rcases perform_next_cases h with ⟨m, _, rfl, rfl⟩ | ⟨m, _, rfl, _, rfl⟩ | ⟨rfl, rfl⟩ | ⟨rfl, rfl⟩ | ⟨rfl, rfl⟩ |
    ⟨rfl, rfl⟩ | ⟨rfl, _, rfl⟩ | ⟨rfl, _, rfl⟩
  · cases l <;> cases m <;> simp
  · cases l <;> cases m <;> simp
  all_goals cases l <;> simp

/-! ### Which rows of the tables name a micro-op (R67) -/

/-- Where R67 lists a micro-op: the commands `i` and steps `k` that can name it. Of `Drive` and `Delay` it is said only that no command
begins with one, and where a command that releases the data line drives it. -/
def rowOf (i : Instr) (k : Nat) : MicroOp → Prop
  | .setDir .scl d => i = .start ∧ k = 2 ∧ d = .out
  | .setDir .sda _ => True
  | .drive .scl _ => 1 ≤ k
  | .drive .sda _ => 1 ≤ k ∧ i ≠ .waitAck ∧ ∀ a, i = .readByte a → k = 42
  | .delay => 1 ≤ k
  | .releaseAndClear => (∃ a, i = .readByte a) ∧ k = 0
  | .sampleAck => i = .waitAck ∧ k = 4
  | .sampleRx => (∃ a, i = .readByte a) ∧ ∃ j, j < 8 ∧ k = 3 + 5 * j
  | .reclaimAndDiag => i = .waitAck ∧ k = 7

/-- The tables name a micro-op only where R67 lists it. -/
theorem uopTable_rowOf {i : Instr} {k : Nat} {u : MicroOp} (h : uopTable i k = some u) : rowOf i k u := by
  cases i with
  | start => simp only [uopTable, startUop] at h; split at h <;> cases h <;> simp [rowOf]
  | stop => simp only [uopTable, stopUop] at h; split at h <;> cases h <;> simp [rowOf]
  | waitAck => simp only [uopTable, waitAckUop] at h; split at h <;> cases h <;> simp [rowOf]
  | writeByte b =>
    simp only [uopTable, writeByteUop] at h
    split_ifs at h with h0 h48
    · cases h; trivial
    · have hk : 1 ≤ k := by omega
      split at h <;> cases h <;> simp [rowOf, hk]
  | readByte a =>
    simp only [uopTable, readByteUop] at h
    split_ifs at h with h0 h40
    · cases h; simp [rowOf, h0]
    · have hk : 1 ≤ k := by omega
      split at h <;> cases h
      · exact hk
      · exact ⟨⟨a, rfl⟩, (k - 1) / 5, by omega, by omega⟩
      · exact hk
      · exact hk
    · split at h <;> cases h <;> simp [rowOf]

/-! ### What a step writes (R10, R28, R125) -/

/-- A host access writes none of the lines, `READY`, `ACK`, `RXDATA`, the trace, the peer and the schedule (R41, R42, R66). -/
theorem hostStep_frame {a : HostAction} {s t : State} (h : hostStep a s = .next t) :
    t = { s with ir := t.ir, seq := t.seq, busy := t.busy, cmdErr := t.cmdErr, hostLog := t.hostLog } := by
  obtain ⟨_, _, rfl⟩ | ⟨_, _, _, _, rfl⟩ | ⟨_, _, _, rfl⟩ := hostStep_next_cases h <;> rfl

/-- Whose turn comes next does not decide about a command word (R66). -/
@[simp] theorem commandRefusal_setSchedule (w : Word) (s : State) (ts : List Turn) :
    commandRefusal w { s with schedule := ts } = commandRefusal w s := rfl

/-- The engine performs micro-op `u` of the command `i` in flight, which leaves `v` before the counter moves; `v` comes from `s` with
the turn taken off. -/
def performsRow (i : Instr) (u : MicroOp) (s v : State) : Prop :=
  (nextTurn s).1 = .engine ∧ s.busy = true ∧ decode s.ir = .command i ∧
    uopTable i s.seq.toNat = some u ∧ perform u { s with schedule := s.schedule.tail } = .next v

/-! ### Turns (R10, R28) -/

/-- A step whose turn comes from the schedule. -/
theorem step_cons {s : State} {t : Turn} {rest : List Turn} (h : s.schedule = t :: rest) :
    step s = takeTurn t { s with schedule := rest } := by
  simp [step, nextTurn_cons h]

/-- A step once the schedule is used up is the engine's. -/
theorem step_nil {s : State} (h : s.schedule = []) : step s = engineStep s := by
  simp [step, nextTurn_nil h, takeTurn]

/-! ### `IR` and its operands (R13, R61) -/

/-- The byte of a `WRITE_BYTE` word is its bits 7:0 (R61). -/
theorem decode_writeByte_operand {w : Word} {b : Byte} (h : decode w = .command (.writeByte b)) :
    b = w.extractLsb' 0 8 := by
  unfold decode at h
  split_ifs at h <;> simp only [Decoded.command.injEq, Instr.writeByte.injEq, reduceCtorEq] at h
  exact h.symm

/-- The `send_ack` operand of a `READ_BYTE` word is its bit 0 (R61). -/
theorem decode_readByte_operand {w : Word} {a : Bool} (h : decode w = .command (.readByte a)) :
    a = w.getLsbD 0 := by
  unfold decode at h
  split_ifs at h <;> simp only [Decoded.command.injEq, Instr.readByte.injEq, reduceCtorEq] at h
  exact h.symm

/-! ### The bits of `STATUS` and `LINES` (R22, R24) -/

/-- Four bits below four zeros, the form of `STATUS` and `LINES`, bit by bit (R22, R24). -/
theorem nibble_getLsbD (b3 b2 b1 b0 : Bool) {x : Byte}
    (hx : x = 0#4 ++ BitVec.ofBool b3 ++ BitVec.ofBool b2 ++ BitVec.ofBool b1 ++ BitVec.ofBool b0) :
    x.getLsbD 0 = b0 ∧ x.getLsbD 1 = b1 ∧ x.getLsbD 2 = b2 ∧ x.getLsbD 3 = b3 ∧
      ∀ n, 4 ≤ n → n ≤ 7 → x.getLsbD n = false := by
  subst hx
  simp only [BitVec.getLsbD_append]
  refine ⟨by simp, by simp, by simp, by simp, fun n h4 _ => ?_⟩
  have h : ¬ n < 1 ∧ ¬ n - 1 < 1 ∧ ¬ n - 1 - 1 < 1 ∧ ¬ n - 1 - 1 - 1 < 1 := by omega
  simp [h]

theorem dirBit_eq_true_iff (d : Dir) : dirBit d = true ↔ d = .out := by cases d <;> decide

theorem levelBit_eq_true_iff (v : Level) : levelBit v = true ↔ v = .high := by cases v <;> decide

/-! ### The mark of a refusal flows nowhere (R17) -/

/-- The state with `CMDERR` set to `c`. -/
def withMark (c : Bool) (s : State) : State :=
  { s with cmdErr := c }

/-- An outcome with `f` applied to its next state. -/
def onNext (f : State → State) : Host.Outcome State Fault Refusal → Host.Outcome State Fault Refusal
  | .next s => .next (f s)
  | .fault e => .fault e
  | .refused r => .refused r

@[simp] theorem withMark_dir (c : Bool) (s : State) (l : Line) : (withMark c s).dir l = s.dir l := by cases l <;> rfl
@[simp] theorem withMark_seq (c : Bool) (s : State) : (withMark c s).seq = s.seq := rfl
@[simp] theorem withMark_ack (c : Bool) (s : State) : (withMark c s).ack = s.ack := rfl

theorem perform_withMark (c : Bool) (u : MicroOp) (s : State) :
    perform u (withMark c s) = onNext (withMark c) (perform u s) := by
  cases u with
  | setDir l d => cases l <;> rfl
  | drive l v =>
    simp only [perform, drive, withMark_dir]
    cases s.dir l with
    | inp => rfl
    | out => cases l <;> rfl
  | reclaimAndDiag => cases ha : s.ack <;> simp only [perform, withMark_ack, ha] <;> rfl
  | delay | releaseAndClear | sampleAck | sampleRx => rfl

theorem advance_withMark (c : Bool) (n : Nat) (s : State) : advance n (withMark c s) = withMark c (advance n s) := by
  by_cases hl : s.seq.toNat + 1 = n
  · rw [advance_last hl, advance_last (s := withMark c s) hl]
    rfl
  · rw [advance_inner hl, advance_inner (s := withMark c s) hl]
    rfl

theorem runMicroOp_withMark (c : Bool) (n : Nat) (table : Nat → Option MicroOp) (s : State) :
    runMicroOp n table (withMark c s) = onNext (withMark c) (runMicroOp n table s) := by
  simp only [runMicroOp, withMark_seq]
  cases table s.seq.toNat with
  | none => rfl
  | some u =>
    simp only [perform_withMark]
    cases perform u s with
    | next t => simp [onNext, advance_withMark]
    | fault f => rfl
    | refused r => rfl

/-- No micro-op of any command depends on `CMDERR` (R17). -/
theorem exec_withMark (c : Bool) (i : Instr) (s : State) :
    exec i (withMark c s) = onNext (withMark c) (exec i s) := by
  simp only [exec_eq, runMicroOp_withMark]

theorem engineStep_withMark (c : Bool) (s : State) :
    engineStep (withMark c s) = onNext (withMark c) (engineStep s) := by
  cases hb : s.busy with
  | false =>
    rw [engineStep_idle hb, engineStep_idle (s := withMark c s) hb]
    rfl
  | true =>
    cases hd : decode s.ir with
    | command i => rw [engineStep_busy hb hd, engineStep_busy (s := withMark c s) hb hd, exec_withMark]
    | reserved why => simp [engineStep, withMark, hb, hd, onNext]

theorem commandRefusal_withMark (c : Bool) (w : Word) (s : State) :
    commandRefusal w (withMark c s) = commandRefusal w s := rfl

theorem nextTurn_withMark (c : Bool) (s : State) :
    nextTurn (withMark c s) = ((nextTurn s).1, withMark c (nextTurn s).2) := by
  cases hs : s.schedule with
  | nil => rw [nextTurn_nil hs, nextTurn_nil (s := withMark c s) hs]
  | cons t rest =>
    rw [nextTurn_cons hs, nextTurn_cons (s := withMark c s) hs]
    rfl

end Sys2Proof.Machine

namespace Sys2Proof.Safety

open Sys2Proof.Machine

/-- A step that is no reset either is one micro-op of the command in flight or writes none of the lines, `READY`, `ACK`, `RXDATA`,
the trace and the peer. -/
theorem step_microOp_or_frame {s t : State} (hn : noReset s) (h : step s = .next t) :
    (∃ i u v, performsRow i u s v ∧ t = advance (stepCount i) v) ∨
    t = { s with
      ir := t.ir, seq := t.seq, busy := t.busy, cmdErr := t.cmdErr, schedule := t.schedule, hostLog := t.hostLog } := by
  obtain ⟨p, rfl, ⟨_, _, rfl⟩ | ⟨i, u, v, ht, hb, hd, hu, hv, rfl⟩ | ⟨a, _, ha⟩ | ⟨ok, hr, _⟩⟩ := step_next_cases h
  · exact .inr rfl
  · exact .inl ⟨i, u, v, ⟨ht, hb, hd, hu, hv⟩, rfl⟩
  · exact .inr (by rw [hostStep_frame ha])
  · exact absurd hr (hn ok)

/-- A drive of the data line is reached in a run only while that line is an output (R67, R112). -/
theorem sdaDir_out_of_drive_row {i : Instr} {k : Nat} {v : Level} {s : State}
    (hu : uopTable i k = some (.drive .sda v)) (hm : midLines i k s) : s.sdaDir = .out := by
  obtain ⟨hk, hw, hr⟩ : rowOf i k (.drive .sda v) := uopTable_rowOf hu
  obtain ⟨_, hm⟩ := hm
  cases i with
  | start | stop | writeByte =>
    obtain ⟨hdir, _⟩ := hm
    exact hdir hk
  | waitAck => exact absurd rfl hw
  | readByte a =>
    obtain ⟨_, hdir, _⟩ := hm
    exact hdir (hr a rfl).ge

/-! ### Steps that end alike whatever `CMDERR` is (R17) -/

/-- An outcome ends alike with what a function makes of its next state, if the function keeps to the relation. -/
theorem endAlike_onNext {r : State → State → Prop} {f : State → State} (hf : ∀ s, r s (f s))
    (x : Host.Outcome State Fault Refusal) : endAlike r x (onNext f x) := by
  cases x with
  | next s => exact hf s
  | fault e => rfl
  | refused e => rfl

theorem alikeButMark_withMark (c : Bool) (s : State) : alikeButMark s (withMark c s) := by
  simp [alikeButMark, withMark]

/-- A host access ends alike whatever `CMDERR` is, the reply apart (R17, R22). -/
theorem hostStep_withMark (c : Bool) (a : HostAction) (s : State) :
    endAlike alikeButMark (hostStep a s) (hostStep a (withMark c s)) := by
  cases a with
  | regRead n =>
    match n with
    | 0 | 1 | 2 | 3 => exact alikeButMark_withMark c s
    | k + 4 => rfl
  | regWrite n v =>
    simp only [hostStep]
    split_ifs with h0 h3
    · simp only [writeCmd, commandRefusal_withMark]
      cases commandRefusal v s with
      | some r => exact alikeButMark_withMark c s
      | none => exact alikeButMark_withMark c (acceptCommand v s)
    · exact alikeButMark_withMark c s
    · rfl

/-- Every turn ends alike whatever `CMDERR` is (R17). -/
theorem takeTurn_withMark (c : Bool) (t : Turn) (s : State) :
    endAlike alikeButMark (takeTurn t s) (takeTurn t (withMark c s)) := by
  cases t with
  | engine =>
    simp only [takeTurn, engineStep_withMark]
    exact endAlike_onNext (alikeButMark_withMark c) _
  | host a => exact hostStep_withMark c a s
  | reset ok => simp [takeTurn, endAlike, alikeButMark, withMark]

end Sys2Proof.Safety

/-! ## The statements of the state (spec/10_state.md) -/

namespace Sys2Proof.StateProofs

open Sys2Proof Sys2Proof.Machine Sys2Proof.Safety

/-- Settles O32: the only drive of a run that can meet an input is of the clock line, and only `START` writes that line's direction. -/
theorem noFaultOnceClockIsClaimed : Obligations.NoFaultOnceClockIsClaimed := by
  intro s ⟨_, _, hrun⟩ hout
  refine ⟨fun f h => ?_, fun t hn h => ?_⟩
  · obtain ⟨i, l, v, _, hb, hd, hu, hl, _⟩ := step_fault_cases h
    obtain ⟨j, hj, _, hm⟩ := hrun hb
    obtain rfl : i = j := by simpa [hd] using hj
    cases l with
    | scl => simp [hout] at hl
    | sda => simp [sdaDir_out_of_drive_row hu hm] at hl
  · obtain ⟨i, u, v, ⟨_, _, _, hu, hv⟩, rfl⟩ | hf := step_microOp_or_frame hn h
    · obtain hv | ⟨rfl, _⟩ := perform_sclDir hv
      · simpa [hv] using hout
      · obtain ⟨_, _, hd⟩ : rowOf i _ (.setDir .scl v.sclDir) := uopTable_rowOf hu
        simpa using hd
    · exact (congrArg State.sclDir hf).trans hout

/-- Settles O37, from the two cases of `advance` on a state whose counter the micro-op has left alone. -/
theorem engineStepCountsSeq : Obligations.EngineStepCountsSeq := by
  intro i s t h
  rw [exec_eq] at h
  obtain ⟨u, v, hu, hv, rfl⟩ := runMicroOp_next h
  obtain ⟨hir, hseq, hbusy, _, _⟩ := perform_frame hv
  have hlt := lt_stepCount_of_uopTable hu
  refine ⟨hlt, by simpa using hir, fun hl => ?_, fun hl => ?_⟩
  · rw [advance_last (by rwa [hseq])]
    exact ⟨rfl, rfl⟩
  · rw [advance_inner (by rwa [hseq]), hseq]
    exact ⟨seq_succ_toNat (hlt.trans_le (stepCount_le i)), hbusy⟩

/-- Settles O38: only a refused write is among the cases of a step that set the mark, and nothing a turn does reads it. -/
theorem cmdErrIsSticky : Obligations.CmdErrIsSticky := by
  refine ⟨fun s t hn h => ?_, fun s ok => rfl, fun i s c => ?_, fun w s c =>
    commandRefusal_withMark c w s, fun s c => ?_⟩
  · obtain ⟨p, rfl, ⟨ht, _, rfl⟩ | ⟨i, u, v, ht, _, _, _, hv, rfl⟩ | ⟨a, ht, ha⟩ | ⟨ok, hr, _⟩⟩ := step_next_cases h
    · simp [ht]
    · obtain ⟨_, _, _, _, hc⟩ := perform_frame hv
      simp [ht, hc]
    · rw [ht]
      obtain ⟨hno, r, rfl⟩ | ⟨w, r, rfl, hr, rfl⟩ | ⟨w, rfl, hr, rfl⟩ := hostStep_next_cases ha
      · simp [hno]
      · rw [commandRefusal_setSchedule] at hr
        simp [hr]
      · rw [commandRefusal_setSchedule] at hr
        simp [hr]
    · exact absurd hr (hn ok)
  · have hexec : exec i { s with cmdErr := c } = onNext (withMark c) (exec i s) := exec_withMark c i s
    rw [hexec]
    exact endAlike_onNext (r := fun t u => u = withMark c t) (fun _ => rfl) _
  · show endAlike alikeButMark (step s) (step (withMark c s))
    simp only [step, nextTurn_withMark]
    exact takeTurn_withMark c _ _

/-- Settles O39: `READY` is in the frame of a micro-op and of a host access. -/
theorem readyOnlyFromReset : Obligations.ReadyOnlyFromReset := by
  refine ⟨fun ok s => ⟨rfl, rfl⟩, fun s t hn h => ?_, fun w s hr => ?_⟩
  · obtain ⟨i, u, v, ⟨_, _, _, _, hv⟩, rfl⟩ | hf := step_microOp_or_frame hn h
    · obtain ⟨_, _, _, hready, _⟩ := perform_frame hv
      simpa using hready
    · rw [hf]
  · have hc : commandRefusal w s = some .notReady := by simp [commandRefusal, hr]
    simp [hostStep, writeCmd, hc, reply, setCmdErr]

/-- Settles O40: of the cases of a step only an accepted write puts a word into `IR`. -/
theorem irWrittenOnlyByAcceptance : Obligations.IrWrittenOnlyByAcceptance := by
  refine ⟨fun s t hn h => ?_, fun w s r hr => ?_, fun w s hr => ?_, fun b s => decode_writeByte_operand,
    fun a s => decode_readByte_operand⟩
  · obtain ⟨p, rfl, ⟨_, _, rfl⟩ | ⟨i, u, v, _, _, _, _, hv, rfl⟩ | ⟨a, ht, ha⟩ | ⟨ok, hr, _⟩⟩ := step_next_cases h
    · exact .inl rfl
    · obtain ⟨hir, _⟩ := perform_frame hv
      exact .inl (by simpa using hir)
    · obtain ⟨_, r, rfl⟩ | ⟨w, r, _, _, rfl⟩ | ⟨w, rfl, hr, rfl⟩ := hostStep_next_cases ha
      · exact .inl rfl
      · exact .inl rfl
      · exact .inr ⟨w, ht, hr, rfl⟩
    · exact absurd hr (hn ok)
  · simp [writeCmd, hr]
  · simp [writeCmd, hr]

/-- Settles O41: the one micro-op that writes `ACK` has one row. -/
theorem ackWrittenOnlyByWaitAck : Obligations.AckWrittenOnlyByWaitAck := by
  intro s t hn h hne
  obtain ⟨i, u, v, ⟨ht, hb, hd, hu, hv⟩, rfl⟩ | hf := step_microOp_or_frame hn h
  · rw [advance_ack] at hne
    obtain rfl := (perform_ack hv).resolve_left hne
    obtain ⟨rfl, hk⟩ : rowOf i _ .sampleAck := uopTable_rowOf hu
    exact ⟨hb, hd, BitVec.eq_of_toNat_eq hk, ht⟩
  · exact absurd (by rw [hf]) hne

/-- Settles O42: the two micro-ops that write `RXDATA` have these rows, all of `READ_BYTE`. -/
theorem rxDataWrittenOnlyByReadByte : Obligations.RxDataWrittenOnlyByReadByte := by
  intro s t hn h hne
  obtain ⟨i, u, v, ⟨ht, hb, hd, hu, hv⟩, rfl⟩ | hf := step_microOp_or_frame hn h
  · rw [advance_rxData] at hne
    obtain ⟨rfl, h0⟩ | rfl := (perform_rxData hv).resolve_left hne
    · obtain ⟨⟨a, rfl⟩, hk⟩ : rowOf i _ .releaseAndClear := uopTable_rowOf hu
      exact ⟨hb, ⟨a, hd⟩, ht, .inl ⟨BitVec.eq_of_toNat_eq hk, by simpa using h0⟩⟩
    · obtain ⟨⟨a, rfl⟩, hk⟩ : rowOf i _ .sampleRx := uopTable_rowOf hu
      exact ⟨hb, ⟨a, hd⟩, ht, .inr hk⟩
  · exact absurd (by rw [hf]) hne

/-- Settles O43: each of the four elements is either left alone by a micro-op or goes with its own event. -/
theorem lineStateWrittenOnlyByItsMicroOps : Obligations.LineStateWrittenOnlyByItsMicroOps := by
  intro s t hn h
  obtain ⟨i, u, v, ⟨_, hb, hd, hu, hv⟩, rfl⟩ | hf := step_microOp_or_frame hn h
  · simp only [advance_sclDir, advance_sclOut, advance_sdaDir, advance_sdaOut, advance_trace]
    refine ⟨fun hne => ?_, fun hne => ((perform_sclDir hv).resolve_left hne).2, (perform_sdaDir hv).resolve_left,
      (perform_latch .scl hv).resolve_left, (perform_latch .sda hv).resolve_left⟩
    obtain ⟨rfl, _⟩ := (perform_sclDir hv).resolve_left hne
    obtain ⟨rfl, hk, ho⟩ : rowOf i _ (.setDir .scl v.sclDir) := uopTable_rowOf hu
    exact ⟨ho, hb, hd, BitVec.eq_of_toNat_eq hk⟩
  · rw [hf]
    simp

/-- Settles O7, by whose turn it is. -/
theorem stepRunsDecodedCommand : Obligations.StepRunsDecodedCommand := by
  intro s i hb hd
  refine ⟨fun hs => ?_, fun rest hs => ?_⟩
  · rw [step_nil hs, engineStep_busy hb hd]
  · rw [step_cons hs]
    exact engineStep_busy hb hd

/-- Settles O9, by whose turn it is. -/
theorem turnsOfTheOtherAgents : Obligations.TurnsOfTheOtherAgents := by
  intro s rest
  refine ⟨fun a hs => step_cons hs, fun ok hs => step_cons hs, fun hb hs => ?_, fun hb hs => ?_⟩
  · rw [step_nil hs, engineStep_idle hb]
  · rw [step_cons hs]
    exact engineStep_idle hb

/-- Settles O17: the tables end at `N(op)`, and a reserved word has no table. -/
theorem noMicroOpIsRefused : Obligations.NoMicroOpIsRefused := by
  refine ⟨fun i s hk => ?_, fun s why hb hd hs => ?_⟩
  · rw [exec_eq]
    simp [runMicroOp, (uopTable_none_iff i _).2 hk]
  · rw [step_nil hs]
    simp [engineStep, hb, hd]

/-- Settles O51, by the register's number. -/
theorem hostRegisterAccess : Obligations.HostRegisterAccess := by
  intro s v
  refine ⟨rfl, rfl, rfl, rfl, rfl, fun n h1 h3 => ?_, fun n h4 => ⟨?_, ?_⟩⟩
  · have h0 : n ≠ 0 := by omega
    simp [hostStep, h0, h3, reply]
  · obtain ⟨k, rfl⟩ := Nat.exists_eq_add_of_le' h4
    rfl
  · have h0 : n ≠ 0 := by omega
    have h3 : ¬ n ≤ 3 := by omega
    simp [hostStep, h0, h3]

/-- Settles O53. -/
theorem statusLayout : Obligations.StatusLayout := by
  refine ⟨fun s => ⟨rfl, nibble_getLsbD s.cmdErr s.ack s.ready s.busy rfl⟩, fun ok => ?_⟩
  cases ok <;> decide

/-- Settles O54: a read of `LINES` is answered in the reply record alone. -/
theorem linesLayout : Obligations.LinesLayout := by
  refine ⟨fun s => ?_, fun ok => ?_⟩
  · obtain ⟨h0, h1, h2, h3, hn⟩ :=
      nibble_getLsbD (levelBit s.sdaOut) (dirBit s.sdaDir) (levelBit s.sclOut) (dirBit s.sclDir) (x := linesByte s) rfl
    rw [h0, h1, h2, h3, dirBit_eq_true_iff, dirBit_eq_true_iff, levelBit_eq_true_iff, levelBit_eq_true_iff]
    exact ⟨rfl, .rfl, .rfl, .rfl, .rfl, hn, _, rfl, rfl, rfl, rfl⟩
  · cases ok <;> decide

end Sys2Proof.StateProofs

/-! ## The lines' rules: what a line shows, what a row of a table does, and when a step is refused -/

namespace Sys2Proof.Machine

/-! ### The level of a line (R47) -/

/-- A released line shows what the peer leaves on it. -/
theorem level_inp {l : Line} {s : State} (pulled : Bool) (c : Level) (h : s.dir l = .inp) :
    level l pulled c s = if pulled then .low else .high := by simp [level, h]

/-- A line driven low is low, pulled or not. -/
theorem level_out_low {l : Line} {s : State} (pulled : Bool) (c : Level) (hd : s.dir l = .out) (hl : s.latch l = .low) :
    level l pulled c s = .low := by simp [level, hd, hl]

/-- A driven line that nobody pulls shows its latch. -/
theorem level_out_unpulled {l : Line} {s : State} (c : Level) (h : s.dir l = .out) :
    level l false c s = s.latch l := by cases hl : s.latch l <;> simp [level, h, hl]

/-- A line driven high that the peer pulls is contended (R48). -/
theorem level_out_contended {l : Line} {s : State} (c : Level) (hd : s.dir l = .out) (hl : s.latch l = .high) :
    level l true c s = c := by simp [level, hd, hl]

/-! ### `SetDir` (R44) -/

@[simp] theorem setDir_dir_same (l : Line) (d : Dir) (s : State) : (setDir l d s).dir l = d := by cases l <;> rfl

@[simp] theorem setDir_latch (l m : Line) (d : Dir) (s : State) : (setDir l d s).latch m = s.latch m := by
  cases l <;> cases m <;> rfl

/-! ### A sampled level as a bit (R101) -/

theorem ackOf_eq_decide (v : Level) : ackOf v = decide (v = .low) := by cases v <;> rfl

theorem shiftIn_eq_ite (acc : Byte) (v : Level) :
    shiftIn acc v = (acc <<< 1) ||| (if v = .high then 1#8 else 0#8) := by cases v <;> rfl

/-! ### A row of a command's table, run (R28, R67) -/

/-- The row of an inner step that completes: its effect, and the counter one on. -/
theorem exec_inner_row {i : Instr} {k : Nat} {u : MicroOp} {s t : State} (hk : s.seq.toNat = k)
    (hu : uopTable i k = some u) (ht : perform u s = .next t) (hl : k + 1 ≠ stepCount i) :
    exec i s = .next { t with seq := s.seq + 1#6 } := by
  subst hk
  obtain ⟨_, hseq, _⟩ := perform_frame ht
  rw [exec_eq, runMicroOp_of hu ht, advance_inner (by rwa [hseq]), hseq]

/-- The row of a drive of an input faults, naming the line, the word and the step (R45, R112). -/
theorem exec_drive_row_inp {i : Instr} {k : Nat} {l : Line} {v : Level} {s : State} (hl : s.dir l = .inp)
    (hk : s.seq.toNat = k) (hu : uopTable i k = some (.drive l v)) :
    exec i s = .fault (.driveWhileInput l s.ir s.seq) := by
  rw [exec_eq]
  simp [runMicroOp, hk, hu, perform, drive_inp hl]

/-! ### Refused steps (R28, R125, U7) -/

/-- A step is refused only at a reserved word in flight, at a counter past the command's end, or as a host access. -/
theorem step_refused_cases {s : State} {r : Refusal} (h : step s = .refused r) :
    (∃ why, (nextTurn s).1 = .engine ∧ s.busy = true ∧ decode s.ir = .reserved why ∧ r = .reservedInIR s.ir) ∨
    (∃ i, (nextTurn s).1 = .engine ∧ s.busy = true ∧ decode s.ir = .command i ∧ stepCount i ≤ s.seq.toNat ∧
      r = .noMicroOp s.seq) ∨
    (∃ a, (nextTurn s).1 = .host a ∧ hostStep a { s with schedule := s.schedule.tail } = .refused r) := by
  unfold step at h
  rw [nextTurn_state] at h
  cases ht : (nextTurn s).1 with
  | engine =>
    simp only [ht, takeTurn, engineStep] at h
    cases hb : s.busy with
    | false => simp [hb] at h
    | true =>
      cases hd : decode s.ir with
      | reserved why => exact .inl ⟨why, rfl, rfl, rfl, by simpa [hb, hd] using h.symm⟩
      | command i =>
        simp only [hb, hd, if_true, exec_eq] at h
        obtain ⟨hnone, hr⟩ := runMicroOp_refused h
        exact .inr (.inl ⟨i, rfl, rfl, rfl, (uopTable_none_iff i _).1 hnone, hr⟩)
  | host a => exact .inr (.inr ⟨a, rfl, by simpa [ht, takeTurn] using h⟩)
  | reset ok => simp [ht, takeTurn] at h

end Sys2Proof.Machine

/-! ## The statements of the lines and the host's accesses (spec/20_memory.md) -/

namespace Sys2Proof.MemoryProofs

open Sys2Proof Sys2Proof.Machine Sys2Proof.Safety

/-- Settles O15: the level is the one the next sample returns, and a sample asks nothing of the direction. -/
theorem sampleCompletesInEitherDirection : Obligations.SampleCompletesInEitherDirection := by
  intro s
  refine ⟨sampleValue .sda s, sampleValue_released (l := .sda), level_out_low (l := .sda) _ _, fun hd hl hp => ?_,
    fun hk => ?_, fun a k hk hs => ?_⟩
  · rw [sampleValue, hp, level_out_unpulled (l := .sda) _ hd]
    exact hl
  · rw [exec_inner_row (k := 4) (u := .sampleAck) (by rw [hk]; rfl) rfl rfl (by decide), hk, ackOf_eq_decide]
    rfl
  · obtain ⟨_, _, hrow, _⟩ := readByteUop_rows a hk
    have hinner : 3 + 5 * k + 1 ≠ stepCount (.readByte a) := by simp only [stepCount]; omega
    rw [exec_inner_row (i := .readByte a) hs hrow rfl hinner, shiftIn_eq_ite]
    rfl

/-- Settles O16: each listed step is a row of its command's table that drives the line. -/
theorem everyDriveOfAnInputFaults : Obligations.EveryDriveOfAnInputFaults := by
  refine fun s => ⟨fun hin => ?_, fun hin => ?_⟩
  · have fault {i k v} := exec_drive_row_inp (i := i) (k := k) (l := .scl) (v := v) hin
    refine ⟨?start, fun h => fault h rfl, fun b k hk => ?writeByte, ?waitAck, fun a k hk => ?readByteBits,
      fun a => ?readByteAck⟩
    case start => rintro (h | h) <;> exact fault h rfl
    case writeByte =>
      obtain ⟨_, _, hhigh, _, hlow, _⟩ := writeByteUop_rows b hk
      rintro (h | h)
      · exact fault h hhigh
      · exact fault h hlow
    case waitAck => rintro (h | h) <;> exact fault h rfl
    case readByteBits =>
      obtain ⟨hhigh, _, _, hlow, _⟩ := readByteUop_rows a hk
      rintro (h | h)
      · exact fault h hhigh
      · exact fault h hlow
    case readByteAck => rintro (h | h) <;> exact fault h rfl
  · have fault {i k v} := exec_drive_row_inp (i := i) (k := k) (l := .sda) (v := v) hin
    refine ⟨?start, ?stop, fun b k hk h => ?writeByte, fun a h => fault h rfl⟩
    case start => rintro (h | h) <;> exact fault h rfl
    case stop => rintro (h | h) <;> exact fault h rfl
    case writeByte =>
      obtain ⟨hdata, _⟩ := writeByteUop_rows b hk
      exact fault h hdata

/-- Settles O35: the invariant names a command in flight with `SEQ` inside it, which leaves the host's accesses. -/
theorem onlyRefusalIsNoSuchRegister : Obligations.OnlyRefusalIsNoSuchRegister := by
  intro s r ⟨_, _, hrun⟩ h
  obtain ⟨why, _, hb, hres, _⟩ | ⟨i, _, hb, hi, hpast, _⟩ | ⟨a, ht, ha⟩ := step_refused_cases h
  · obtain ⟨j, hj, _⟩ := hrun hb
    simp [hres] at hj
  · obtain ⟨j, hj, hlt, _⟩ := hrun hb
    obtain rfl : i = j := by simpa [hi] using hj
    exact absurd hlt (Nat.not_lt.2 hpast)
  · obtain ⟨n, hn, rfl, rfl | ⟨v, rfl⟩⟩ := hostStep_refused ha
    · exact ⟨n, hn, rfl, .inl ht⟩
    · exact ⟨n, hn, rfl, .inr ⟨v, ht⟩⟩

/-- Settles O50: of the three cases of a host access only acceptance writes more than the mark, and it needs `BUSY` 0. -/
theorem hostActionFrame : Obligations.HostActionFrame := by
  refine fun a s t h => ⟨hostStep_frame h, fun hb => ?_⟩
  obtain ⟨_, _, rfl⟩ | ⟨_, _, _, _, rfl⟩ | ⟨w, _, hnone, _⟩ := hostStep_next_cases h
  · rfl
  · rfl
  · obtain ⟨_, hidle, _⟩ := (commandRefusal_none_iff w s).1 hnone
    simp [hb] at hidle

/-- Settles O57: after `SetDir` the line has the direction written and the latch it had, so R47's rows give its level. -/
theorem setDirTakesEffectAtOnce : Obligations.SetDirTakesEffectAtOnce := by
  refine fun d s => ⟨rfl, rfl, fun l c => ⟨?_, fun pulled => ?_⟩⟩
  · rw [level_out_unpulled c (setDir_dir_same l .out s), setDir_latch]
  · exact level_inp pulled c (setDir_dir_same l .inp s)

/-- Settles O58, by the direction. -/
theorem driveNeedsOutput : Obligations.DriveNeedsOutput :=
  fun _ _ => ⟨fun h => drive_out h, fun h => drive_out h, fun _ h => drive_inp h⟩

/-- Settles O59, row by row. -/
theorem levelTable : Obligations.LevelTable :=
  fun _ c _ => ⟨fun pulled hd hl => level_out_low pulled c hd hl,
    fun hd hl => ⟨(level_out_unpulled c hd).trans hl, level_out_contended c hd hl⟩,
    fun hd => ⟨level_inp true c hd, level_inp false c hd⟩⟩

end Sys2Proof.MemoryProofs

/-! ## The encoding's rules: masks, the words of the commands, and what the engine's run and the host's writes depend on -/

namespace Sys2Proof

/-! ### Words cut into bits (R60, R63) -/

/-- A mask of the high bits compares the high bits. -/
theorem and_highMask_iff {n m : Nat} (hi c : BitVec n) (lo : BitVec m) :
    (hi ++ lo) &&& (BitVec.allOnes n ++ 0#m) = c ++ 0#m ↔ hi ++ lo = c ++ lo := by
  rw [BitVec.and_append, BitVec.and_allOnes, BitVec.and_zero, BitVec.append_left_inj, BitVec.append_left_inj]

/-- A word is its two fields (R60). -/
theorem word_eq_op_append_arg (w : Word) : w = w.extractLsb' 8 8 ++ w.extractLsb' 0 8 := by
  rw [BitVec.extractLsb'_append_extractLsb'_eq_extractLsb' (by rfl)]
  exact BitVec.extractLsb'_eq_self.symm

/-- A word is its fifteen high bits and bit 0. -/
theorem word_eq_high_append_bit (w : Word) : w = w.extractLsb' 1 15 ++ BitVec.ofBool (w.getLsbD 0) := by
  have h : BitVec.ofBool (w.getLsbD 0) = w.extractLsb' 0 1 := by
    ext i hi
    obtain rfl : i = 0 := by omega
    simp
  rw [h, BitVec.extractLsb'_append_extractLsb'_eq_extractLsb' (by rfl)]
  exact BitVec.extractLsb'_eq_self.symm

theorem and_allMask_iff (w c : Word) : w &&& 0xFFFF#16 = c ↔ w = c := by
  rw [show (0xFFFF#16) = BitVec.allOnes 16 from rfl, BitVec.and_allOnes]

/-- The word of a `READ_BYTE` with its operand bit cut off (R63). -/
theorem encode_readByte_eq (a : Bool) : encode (.readByte a) = (0x0280#15 ++ BitVec.ofBool a : BitVec (15 + 1)) := by
  cases a <;> rfl

/-- The `WRITE_BYTE` row selects the words of its own operands (R63). -/
theorem writeByte_mask_iff (w : Word) :
    w &&& 0xFF00#16 = 0x0300#16 ↔ w = encode (.writeByte (w.extractLsb' 0 8)) := by
  have h := and_highMask_iff (w.extractLsb' 8 8) 0x03#8 (w.extractLsb' 0 8)
  rwa [← word_eq_op_append_arg] at h

/-- The `READ_BYTE` row selects the words of its own operands (R63). -/
theorem readByte_mask_iff (w : Word) :
    w &&& 0xFFFE#16 = 0x0500#16 ↔ w = encode (.readByte (w.getLsbD 0)) := by
  have h := and_highMask_iff (w.extractLsb' 1 15) 0x0280#15 (BitVec.ofBool (w.getLsbD 0))
  rwa [← word_eq_high_append_bit, ← encode_readByte_eq] at h

/-- A word that decodes to a command has met the match of that command's row, which is to be its word (R63, R65). -/
theorem encode_of_decode {w : Word} {i : Instr} (h : decode w = .command i) : encode i = w := by
  simp only [decode, writeByte_mask_iff, readByte_mask_iff] at h
  split_ifs at h with hw hw hw hw hw <;> cases h
  all_goals exact hw.symm

theorem encode_writeByte_arg (b : Byte) : (encode (.writeByte b)).extractLsb' 0 8 = b :=
  BitVec.extractLsb'_append_eq_right

/-- The word of a command meets the match of its own row and of none before it (R63, R65). -/
theorem decode_encode (i : Instr) : decode (encode i) = .command i := by
  cases i with
  | start | stop | waitAck => decide
  | readByte a => cases a <;> decide
  | writeByte b =>
    have hm : encode (.writeByte b) &&& 0xFF00#16 = 0x0300#16 := by
      rw [writeByte_mask_iff, encode_writeByte_arg]
    have hne {c : Word} (hc : c &&& 0xFF00#16 ≠ 0x0300#16) : encode (.writeByte b) ≠ c := by
      rintro rfl
      exact hc hm
    rw [decode, if_neg (hne (by decide)), if_neg (hne (by decide)), if_pos hm, encode_writeByte_arg]

/-- Decoding and encoding say the same: each command has one word, its own (R63, R65). -/
theorem decode_eq_command_iff (w : Word) (i : Instr) : decode w = .command i ↔ w = encode i :=
  ⟨fun h => (encode_of_decode h).symm, fun h => h ▸ decode_encode i⟩

theorem encode_injective : Function.Injective encode :=
  fun i j h => by simpa [decode_encode] using congrArg decode h

/-- The words of a row are the words of its operands. -/
theorem ncard_decode_row {α : Type} {f : α → Instr} (hf : Function.Injective f) :
    Set.ncard {w : Word | ∃ a, decode w = .command (f a)} = Nat.card α := by
  have hrow : {w : Word | ∃ a, decode w = .command (f a)} = Set.range (encode ∘ f) := by
    ext w
    simp [decode_eq_command_iff, eq_comm]
  rw [hrow, Set.ncard_range_of_injective (encode_injective.comp hf)]

/-- A command is its row and that row's operand (R61). -/
def instrEquiv : Instr ≃ (Unit ⊕ Unit ⊕ Unit) ⊕ Byte ⊕ Bool where
  toFun
    | .start => .inl (.inl ())
    | .stop => .inl (.inr (.inl ()))
    | .waitAck => .inl (.inr (.inr ()))
    | .writeByte b => .inr (.inl b)
    | .readByte a => .inr (.inr a)
  invFun
    | .inl (.inl ()) => .start
    | .inl (.inr (.inl ())) => .stop
    | .inl (.inr (.inr ())) => .waitAck
    | .inr (.inl b) => .writeByte b
    | .inr (.inr a) => .readByte a
  left_inv i := by cases i <;> rfl
  right_inv x := by rcases x with (_ | _ | _) | _ | _ <;> rfl

theorem card_byte : Nat.card Byte = 256 := Nat.card_eq_of_equiv_fin BitVec.equivFin.toEquiv

theorem card_instr : Nat.card Instr = 261 := by
  rw [Nat.card_congr instrEquiv]
  simp only [Nat.card_sum, card_byte, Nat.card_unique, Nat.card_eq_fintype_card (α := Bool), Fintype.card_bool]

/-- Which fields make a word a command (R61, R63). -/
theorem exists_decode_command_iff (w : Word) : (∃ i, decode w = .command i) ↔
    (w.extractLsb' 8 8 = 1#8 ∨ w.extractLsb' 8 8 = 2#8 ∨ w.extractLsb' 8 8 = 4#8) ∧ w.extractLsb' 0 8 = 0#8 ∨
      w.extractLsb' 8 8 = 3#8 ∨ w.extractLsb' 8 8 = 5#8 ∧ w.extractLsb' 1 7 = 0#7 := by
  simp only [decode_eq_command_iff]
  constructor
  · rintro ⟨i, rfl⟩
    cases i with
    | start | stop | waitAck => decide
    | writeByte b => exact .inr (.inl BitVec.extractLsb'_append_eq_left)
    | readByte a => cases a <;> decide
  · have hw := word_eq_op_append_arg w
    rintro (⟨hop | hop | hop, harg⟩ | hop | ⟨hop, harg⟩)
    · exact ⟨.start, by rw [hw, hop, harg]; rfl⟩
    · exact ⟨.stop, by rw [hw, hop, harg]; rfl⟩
    · exact ⟨.waitAck, by rw [hw, hop, harg]; rfl⟩
    · exact ⟨.writeByte (w.extractLsb' 0 8), hw.trans (by rw [hop]; rfl)⟩
    · have hhigh : w.extractLsb' 1 15 = 0x0280#15 := by
        rw [← BitVec.extractLsb'_append_extractLsb'_eq_extractLsb' (start₂ := 8) (len₂ := 8) (len₁ := 7) (by rfl), hop,
          harg]
        rfl
      exact ⟨.readByte (w.getLsbD 0), by rw [encode_readByte_eq, ← hhigh]; exact word_eq_high_append_bit w⟩

theorem exists_decode_reserved_iff (w : Word) : (∃ why, decode w = .reserved why) ↔ ¬ ∃ i, decode w = .command i := by
  cases decode w <;> simp

/-- A table word of the command word's own width at most decodes as the command word (R60, R63). -/
theorem decode_of_decodeTableWord {nbits w : Nat} {i : Instr} (h : decodeTableWord nbits w = some i) :
    decode (tableWord nbits w) = .command i := by
  unfold decodeTableWord at h
  split_ifs at h
  cases hd : decode (tableWord nbits w) with
  | command j => simpa [hd] using h
  | reserved why => simp [hd] at h

end Sys2Proof

namespace Sys2Proof.Machine

/-! ### Offering a command word (R66, R111) -/

theorem hostStep_command_refused {w : Word} {s : State} {r : RefuseReason} (h : commandRefusal w s = some r) :
    hostStep (.regWrite 0 w) s = .next { s with cmdErr := true, hostLog := s.hostLog ++ [.refused r] } := by
  simp [hostStep, writeCmd, h, reply, setCmdErr]

theorem hostStep_command_accepted {w : Word} {s : State} (h : commandRefusal w s = none) :
    hostStep (.regWrite 0 w) s
      = .next { s with ir := w, seq := 0#6, busy := true, hostLog := s.hostLog ++ [.accepted] } := by
  simp [hostStep, writeCmd, h, reply, acceptCommand]

theorem commandRefusal_notReady (w : Word) {s : State} (hr : s.ready = false) :
    commandRefusal w s = some .notReady := by simp [commandRefusal, hr]

theorem commandRefusal_busy (w : Word) {s : State} (hr : s.ready = true) (hb : s.busy = true) :
    commandRefusal w s = some .busy := by simp [commandRefusal, hr, hb]

theorem commandRefusal_reserved {w : Word} {s : State} {why : ReservedWhy} (hr : s.ready = true) (hb : s.busy = false)
    (hd : decode w = .reserved why) : commandRefusal w s = some .reserved := by simp [commandRefusal, hr, hb, hd]

/-! ### A row of a table (R28, R67) -/

theorem runMicroOp_of_none {n : Nat} {table : Nat → Option MicroOp} {s : State} (h : table s.seq.toNat = none) :
    runMicroOp n table s = .refused (.noMicroOp s.seq) := by simp [runMicroOp, h]

/-- A row of a table is its micro-op, then the counter (R28). -/
theorem runMicroOp_of_row {n : Nat} {table : Nat → Option MicroOp} {u : MicroOp} {s : State}
    (h : table s.seq.toNat = some u) : runMicroOp n table s = onNext (advance n) (perform u s) := by
  simp only [runMicroOp, h]
  cases perform u s <;> rfl

/-! ### The lines a command relies on (R19, R45, R67) -/

/-- A line once an output stays one until a micro-op releases it (R19, R44). -/
theorem perform_dir_out {u : MicroOp} {s t : State} {l : Line} (h : perform u s = .next t) (ho : s.dir l = .out) :
    t.dir l = .out ∨ u = .setDir l .inp ∨ (l = .sda ∧ u = .releaseAndClear) := by
  rcases perform_next_cases h with ⟨m, d, rfl, rfl⟩ | ⟨m, _, rfl, _, rfl⟩ | ⟨rfl, rfl⟩ | ⟨rfl, rfl⟩ | ⟨rfl, rfl⟩ |
    ⟨rfl, rfl⟩ | ⟨rfl, _, rfl⟩ | ⟨rfl, _, rfl⟩
  · cases l <;> cases m <;> cases d <;> simp_all
  · cases l <;> cases m <;> simpa using ho
  all_goals cases l <;> simp_all

theorem perform_schedule {u : MicroOp} {s t : State} (h : perform u s = .next t) : t.schedule = s.schedule := by
  rcases perform_next_cases h with ⟨l, _, rfl, rfl⟩ | ⟨l, _, rfl, _, rfl⟩ | ⟨rfl, rfl⟩ | ⟨rfl, rfl⟩ | ⟨rfl, rfl⟩ |
    ⟨rfl, rfl⟩ | ⟨rfl, _, rfl⟩ | ⟨rfl, _, rfl⟩
  · cases l <;> rfl
  · cases l <;> rfl
  all_goals rfl

/-- While micro-op `k` is the next one the command relies on the line being an output: the data line from the row that makes it one,
the clock line always, but for `START`, which claims it at step 2 (R67). -/
def reliesOn : Instr → Nat → Line → Prop
  | i, k, .scl => i = .start → 3 ≤ k
  | .waitAck, _, .sda => False
  | .readByte _, k, .sda => 42 ≤ k
  | _, k, .sda => 1 ≤ k

/-- A command drives a line only while it relies on it. -/
theorem reliesOn_of_drive_row {i : Instr} {k : Nat} {l : Line} {v : Level} (hu : uopTable i k = some (.drive l v)) :
    reliesOn i k l := by
  cases l with
  | scl =>
    rintro rfl
    simp only [uopTable, startUop] at hu
    split at hu <;> simp at hu ⊢
  | sda =>
    obtain ⟨hk, hw, hr⟩ : rowOf i k (.drive .sda v) := uopTable_rowOf hu
    cases i with
    | start | stop | writeByte => exact hk
    | waitAck => exact hw rfl
    | readByte a => exact (hr a rfl).ge

/-- A command comes to rely on a line by the row that makes it an output. -/
theorem setDir_row_of_reliesOn_succ {i : Instr} {k : Nat} {l : Line} (h : reliesOn i (k + 1) l)
    (hn : ¬ reliesOn i k l) : uopTable i k = some (.setDir l .out) := by
  cases l with
  | scl =>
    obtain ⟨rfl, hk⟩ : i = .start ∧ k < 3 := by simpa [reliesOn] using hn
    obtain rfl : k = 2 := by have := h rfl; omega
    rfl
  | sda =>
    cases i with
    | start | stop | writeByte =>
      obtain rfl : k = 0 := by simpa [reliesOn] using hn
      rfl
    | waitAck => exact h.elim
    | readByte a =>
      obtain rfl : k = 41 := by simp only [reliesOn] at h hn; omega
      rfl

/-- Among the commands only `WAIT_ACK` releases the data line by a bare `SetDir` (R67). -/
theorem eq_waitAck_of_release_row {i : Instr} {k : Nat} (hu : uopTable i k = some (.setDir .sda .inp)) :
    i = .waitAck := by
  cases i with
  | waitAck => rfl
  | start => simp only [uopTable, startUop] at hu; split at hu <;> cases hu
  | stop => simp only [uopTable, stopUop] at hu; split at hu <;> cases hu
  | writeByte b =>
    simp only [uopTable, writeByteUop] at hu
    split_ifs at hu
    · cases hu
    · split at hu <;> cases hu
  | readByte a =>
    simp only [uopTable, readByteUop] at hu
    split_ifs at hu
    · cases hu
    · split at hu <;> cases hu
    · split at hu <;> cases hu

/-- While a command relies on a line it has no row that releases it. -/
theorem row_keeps_reliesOn {i : Instr} {k : Nat} {l : Line} {u : MicroOp} (hu : uopTable i k = some u)
    (h : reliesOn i k l) : u ≠ .setDir l .inp ∧ ¬ (l = .sda ∧ u = .releaseAndClear) := by
  refine ⟨?_, ?_⟩
  · rintro rfl
    cases l with
    | scl =>
      obtain ⟨_, _, hd⟩ : rowOf i k (.setDir .scl .inp) := uopTable_rowOf hu
      cases hd
    | sda =>
      obtain rfl := eq_waitAck_of_release_row hu
      exact h
  · rintro ⟨rfl, rfl⟩
    obtain ⟨⟨a, rfl⟩, rfl⟩ : rowOf i k .releaseAndClear := uopTable_rowOf hu
    simp [reliesOn] at h

end Sys2Proof.Machine

namespace Sys2Proof.Safety

open Sys2Proof.Machine

/-! ### A command runs to its end (R68, R125) -/

/-- The lines the command relies on at its next micro-op are outputs. -/
def reliedLinesOut (i : Instr) (s : State) : Prop :=
  ∀ l, reliesOn i s.seq.toNat l → s.dir l = .out

theorem run_succ_of_run {k : Nat} {s t : State} (h : run k s = .next t) : run (k + 1) s = step t := by
  rw [run_add 1 h]
  cases ht : step t with
  | next u => exact run_succ ht
  | fault f => exact run_succ_fault ht
  | refused r => exact run_succ_refused ht

/-- The next micro-op of a command whose lines are outputs completes. -/
theorem exists_perform_of_reliedLinesOut {i : Instr} {s : State} (hk : s.seq.toNat < stepCount i) (hl : reliedLinesOut i s) :
    ∃ u v, uopTable i s.seq.toNat = some u ∧ perform u s = .next v := by
  cases hu : uopTable i s.seq.toNat with
  | none => exact absurd ((uopTable_none_iff i _).1 hu) (Nat.not_le.2 hk)
  | some u =>
    cases hv : perform u s with
    | next v => exact ⟨u, v, rfl, hv⟩
    | fault f =>
      obtain ⟨l, v, rfl, hin, _⟩ := perform_fault hv
      simp [hl l (reliesOn_of_drive_row hu)] at hin
    | refused r => exact absurd hv perform_not_refused

/-- A micro-op leaves the lines as the next one relies on them: it keeps a line relied on already, and claims a new one itself. -/
theorem perform_keeps_reliedLinesOut {i : Instr} {u : MicroOp} {s v : State} (hu : uopTable i s.seq.toNat = some u)
    (hv : perform u s = .next v) (hl : reliedLinesOut i s) {l : Line} (h : reliesOn i (s.seq.toNat + 1) l) :
    v.dir l = .out := by
  by_cases hnow : reliesOn i s.seq.toNat l
  · exact (perform_dir_out hv (hl l hnow)).resolve_right (not_or.2 (row_keeps_reliesOn hu hnow))
  · obtain rfl : u = .setDir l .out := by simpa [hu] using setDir_row_of_reliesOn_succ h hnow
    obtain rfl : setDir l .out s = v := by simpa [perform] using hv
    exact setDir_dir_same l .out s

/-- A step of a command in flight whose lines are outputs completes, up to the move of the counter. -/
theorem step_of_reliedLinesOut {i : Instr} {s : State} (h : inFlight i s) (hk : s.seq.toNat < stepCount i)
    (hl : reliedLinesOut i s) :
    ∃ v, step s = .next (advance (stepCount i) v) ∧ inFlight i v ∧ v.seq = s.seq ∧ v.ir = s.ir ∧
      ∀ l, reliesOn i (s.seq.toNat + 1) l → v.dir l = .out := by
  obtain ⟨u, v, hu, hv⟩ := exists_perform_of_reliedLinesOut hk hl
  have hstep : step s = .next (advance (stepCount i) v) := by rw [step_inFlight h, exec_eq, runMicroOp_of hu hv]
  obtain ⟨hir, hseq, hbusy, _⟩ := perform_frame hv
  obtain ⟨hb, hd, hs⟩ := h
  exact ⟨v, hstep, ⟨hbusy.trans hb, by rwa [hir], (perform_schedule hv).trans hs⟩, hseq, hir,
    fun _ => perform_keeps_reliedLinesOut hu hv hl⟩

/-- An accepted command is still in flight after any smaller number of steps than it has micro-ops (R68). -/
theorem run_inner {i : Instr} {s : State} (h : justAccepted i s) (hl : reliedLinesOut i s) {k : Nat} (hk : k < stepCount i) :
    ∃ t, run k s = .next t ∧ inFlight i t ∧ t.seq.toNat = k ∧ t.ir = s.ir ∧ reliedLinesOut i t := by
  obtain ⟨hf, hs⟩ := h
  induction k with
  | zero => exact ⟨s, rfl, hf, by rw [hs]; rfl, rfl, hl⟩
  | succ k ih =>
    have hk' : k < stepCount i := by omega
    obtain ⟨t, hrun, htf, rfl, hir, htl⟩ := ih hk'
    obtain ⟨v, hstep, hvf, hvseq, hvir, hvl⟩ := step_of_reliedLinesOut htf hk' htl
    have hseq : (v.seq + 1#6).toNat = t.seq.toNat + 1 := by
      rw [hvseq, seq_succ_toNat (hk'.trans_le (stepCount_le i))]
    rw [advance_inner (by rw [hvseq]; exact hk.ne)] at hstep
    refine ⟨_, (run_succ_of_run hrun).trans hstep, hvf, hseq, hvir.trans hir, fun l hrel => ?_⟩
    simp only [hseq] at hrel
    have := hvl l hrel
    cases l <;> exact this

/-- An accepted command completes at its last micro-op (R68). -/
theorem run_stepCount {i : Instr} {s : State} (h : justAccepted i s) (hl : reliedLinesOut i s) :
    ∃ t, run (stepCount i) s = .next t ∧ t.busy = false ∧ t.seq = 0#6 ∧ t.ir = s.ir := by
  obtain ⟨n, hn⟩ : ∃ n, stepCount i = n + 1 := Nat.exists_eq_add_one.2 (by cases i <;> simp [stepCount])
  obtain ⟨t, hrun, hf, rfl, hir, htl⟩ := run_inner h hl (k := n) (by omega)
  obtain ⟨v, hstep, _, hvseq, hvir, _⟩ := step_of_reliedLinesOut hf (by omega) htl
  rw [advance_last (by rw [hvseq, hn]), ← run_succ_of_run hrun, ← hn] at hstep
  exact ⟨_, hstep, rfl, rfl, hvir.trans hir⟩

theorem reliedLinesOut_of_justAccepted {i : Instr} {s : State} (h : justAccepted i s) (hscl : i ≠ .start → s.sclDir = .out) :
    reliedLinesOut i s := by
  obtain ⟨_, hs⟩ := h
  intro l hrel
  rw [hs] at hrel
  cases l with
  | scl => exact hscl fun hi => absurd (hrel hi) (by decide)
  | sda => cases i <;> simp [reliesOn] at hrel

/-! ### Steps that end alike whatever the peer does (R47, R68, R113) -/

/-- Outcomes that end alike still do after a function that keeps the relation. -/
theorem endAlike.map {r : State → State → Prop} {f : State → State} {x y : Host.Outcome State Fault Refusal}
    (h : endAlike r x y) (hf : ∀ {s t}, r s t → r (f s) (f t)) : endAlike r (onNext f x) (onNext f y) := by
  cases x with
  | next s =>
    cases y with
    | next t => exact hf h
    | fault | refused => exact h
  | fault | refused => cases y <;> exact h

/-- The state `s` with the peer, and all that its answers flow into, taken from `p`. -/
def withPeerOf (p s : State) : State :=
  { s with
    ack := p.ack, rxData := p.rxData, trace := p.trace, peer := p.peer, draws := p.draws, hostLog := p.hostLog }

theorem alikeButPeer_iff {s t : State} : alikeButPeer s t ↔ t = withPeerOf t s := by
  cases s
  cases t
  simp [alikeButPeer, withPeerOf, eq_comm]

theorem alikeButPeer.exists_withPeerOf {s t : State} (h : alikeButPeer s t) : ∃ p, t = withPeerOf p s :=
  ⟨t, alikeButPeer_iff.1 h⟩

@[simp] theorem withPeerOf_dir (p s : State) (l : Line) : (withPeerOf p s).dir l = s.dir l := by cases l <;> rfl

theorem perform_alikeButPeer (u : MicroOp) {s t : State} (h : alikeButPeer s t) :
    endAlike alikeButPeer (perform u s) (perform u t) := by
  obtain ⟨p, rfl⟩ := h.exists_withPeerOf
  cases u with
  | setDir l d => cases l <;> exact alikeButPeer_iff.2 rfl
  | drive l v =>
    cases hd : s.dir l with
    | inp =>
      rw [perform, drive_inp hd, perform, drive_inp (by simpa using hd)]
      rfl
    | out =>
      rw [perform, drive_out hd, perform, drive_out (by simpa using hd)]
      cases l <;> exact alikeButPeer_iff.2 rfl
  | delay | releaseAndClear | sampleAck | sampleRx => exact alikeButPeer_iff.2 rfl
  | reclaimAndDiag =>
    simp only [perform]
    split_ifs <;> exact alikeButPeer_iff.2 rfl

theorem advance_alikeButPeer (n : Nat) {s t : State} (h : alikeButPeer s t) :
    alikeButPeer (advance n s) (advance n t) := by
  obtain ⟨p, rfl⟩ := h.exists_withPeerOf
  by_cases hl : s.seq.toNat + 1 = n
  · rw [advance_last hl, advance_last (s := withPeerOf p s) hl]
    exact alikeButPeer_iff.2 rfl
  · rw [advance_inner hl, advance_inner (s := withPeerOf p s) hl]
    exact alikeButPeer_iff.2 rfl

/-- One micro-op of a command ends alike: the row is found by `SEQ` alone (R68). -/
theorem exec_alikeButPeer (i : Instr) {s t : State} (h : alikeButPeer s t) :
    endAlike alikeButPeer (exec i s) (exec i t) := by
  obtain ⟨p, rfl⟩ := h.exists_withPeerOf
  cases hu : uopTable i s.seq.toNat with
  | none =>
    rw [exec_eq, exec_eq, runMicroOp_of_none hu, runMicroOp_of_none (s := withPeerOf p s) hu]
    rfl
  | some u =>
    rw [exec_eq, exec_eq, runMicroOp_of_row hu, runMicroOp_of_row (s := withPeerOf p s) hu]
    exact (perform_alikeButPeer u h).map fun h => advance_alikeButPeer _ h

theorem engineStep_alikeButPeer {s t : State} (h : alikeButPeer s t) :
    endAlike alikeButPeer (engineStep s) (engineStep t) := by
  obtain ⟨p, rfl⟩ := h.exists_withPeerOf
  cases hb : s.busy with
  | false =>
    rw [engineStep_idle hb, engineStep_idle (s := withPeerOf p s) hb]
    exact h
  | true =>
    cases hd : decode s.ir with
    | command i =>
      rw [engineStep_busy hb hd, engineStep_busy (s := withPeerOf p s) hb hd]
      exact exec_alikeButPeer i h
    | reserved why => simp [engineStep, withPeerOf, hb, hd, endAlike]

/-- A command write reads only `READY` and `BUSY` (R66). -/
theorem writeCmd_alikeButPeer (w : Word) {s t : State} (h : alikeButPeer s t) :
    alikeButPeer (writeCmd w s) (writeCmd w t) := by
  obtain ⟨p, rfl⟩ := h.exists_withPeerOf
  have hrefusal : commandRefusal w (withPeerOf p s) = commandRefusal w s := rfl
  simp only [writeCmd, hrefusal]
  cases commandRefusal w s <;> exact alikeButPeer_iff.2 rfl

/-- A host access ends alike, what it is answered apart. -/
theorem hostStep_alikeButPeer (a : HostAction) {s t : State} (h : alikeButPeer s t) :
    endAlike alikeButPeer (hostStep a s) (hostStep a t) := by
  cases a with
  | regRead n =>
    match n with
    | 0 | 1 | 2 | 3 => exact h
    | k + 4 => rfl
  | regWrite n v =>
    simp only [hostStep]
    split_ifs
    · exact writeCmd_alikeButPeer v h
    · exact h
    · rfl

theorem takeTurn_alikeButPeer (r : Turn) {s t : State} (h : alikeButPeer s t) :
    endAlike alikeButPeer (takeTurn r s) (takeTurn r t) := by
  cases r with
  | engine => exact engineStep_alikeButPeer h
  | host a => exact hostStep_alikeButPeer a h
  | reset ok =>
    obtain ⟨p, rfl⟩ := h.exists_withPeerOf
    exact alikeButPeer_iff.2 rfl

end Sys2Proof.Safety

/-! ## The statements of the encoding (spec/30_encoding.md) -/

namespace Sys2Proof.EncodingProofs

open Sys2Proof Sys2Proof.Machine Sys2Proof.Safety

/-- Settles O1, row by row of the map. -/
theorem decodeOfEncode : Obligations.DecodeOfEncode :=
  decode_encode

/-- Settles O36, by whose turn it is, which the schedule says for both states alike. -/
theorem peerDoesNotSteerTheEngine : Obligations.PeerDoesNotSteerTheEngine := by
  intro s t h
  obtain ⟨p, rfl⟩ := h.exists_withPeerOf
  cases hs : s.schedule with
  | nil =>
    rw [step_nil hs, step_nil (s := withPeerOf p s) hs]
    exact engineStep_alikeButPeer h
  | cons r rest =>
    rw [step_cons hs, step_cons (s := withPeerOf p s) hs]
    exact takeTurn_alikeButPeer r (alikeButPeer_iff.2 rfl)

/-- Settles O2: each row's match and mask leave only the bits of its operand open. -/
theorem encodeOfDecode : Obligations.EncodeOfDecode :=
  fun _ _ => encode_of_decode

/-- Settles O3: a row's words are those of its operands, one each, so they are counted by the operands. -/
theorem opcodeMapRows : Obligations.OpcodeMapRows := by
  refine ⟨fun w => ?rows, ?_, ?_, ?_, ?_, ?_, ?_⟩
  case rows =>
    simp only [decode_eq_command_iff, and_allMask_iff, writeByte_mask_iff, readByte_mask_iff, and_true]
    exact ⟨.rfl, .rfl, trivial, .rfl⟩
  · simp [decode_eq_command_iff]
  · simp [decode_eq_command_iff]
  · exact (ncard_decode_row fun _ _ => Instr.writeByte.inj).trans card_byte
  · simp [decode_eq_command_iff]
  · exact (ncard_decode_row fun _ _ => Instr.readByte.inj).trans (by simp)
  · exact (ncard_decode_row fun _ _ => id).trans card_instr

/-- Settles O4: the reserved words are those whose fields are no command's, and a write of one passes none of R66's checks. -/
theorem reservedWordsAreRefused : Obligations.ReservedWordsAreRefused := by
  refine fun w => ⟨?_, fun s why hd => ⟨?_, fun hr hb => ?_⟩⟩
  · rw [exists_decode_reserved_iff, exists_decode_command_iff]
    simp only [← BitVec.toNat_inj, BitVec.toNat_ofNat, ne_eq]
    omega
  · cases hc : commandRefusal w s with
    | some r => exact ⟨r, hostStep_command_refused hc⟩
    | none =>
      obtain ⟨_, _, i, hi⟩ := (commandRefusal_none_iff w s).1 hc
      simp [hd] at hi
  · exact hostStep_command_refused (commandRefusal_reserved hr hb hd)

/-- Settles O5: a word that decodes to a command is that command's own, whose fields are written out. -/
theorem operandAssembly : Obligations.OperandAssembly := by
  intro w
  refine ⟨fun h => ?start, fun h => ?stop, fun b h => ?writeByte, fun h => ?waitAck, fun a h => ?readByte⟩
  case start | stop | waitAck =>
    rw [← encode_of_decode h]
    decide
  case writeByte =>
    obtain rfl := decode_writeByte_operand h
    exact ⟨rfl, fun i hi => by simp [hi]⟩
  case readByte =>
    refine ⟨decode_readByte_operand h, ?_⟩
    rw [← encode_of_decode h]
    cases a <;> decide

/-- Settles O23: the lines a command drives are outputs whenever it drives them, so none of its micro-ops faults. -/
theorem completesAfterExactlyN : Obligations.CompletesAfterExactlyN := by
  intro i s h hscl
  have hl := reliedLinesOut_of_justAccepted h hscl
  refine ⟨fun k hk => ?_, run_stepCount h hl⟩
  obtain ⟨t, hrun, ⟨hb, _⟩, hseq, hir, _⟩ := run_inner h hl hk
  exact ⟨t, hrun, hb, hseq, hir⟩

/-- Settles O6: closed words, evaluated. -/
theorem sampleWordsDecode : Obligations.SampleWordsDecode := by
  unfold Obligations.SampleWordsDecode
  decide

/-- Settles O8: the table word decodes as the command word it is laid out as, and the placed command's turn comes next. -/
theorem fetchedWordRunsNext : Obligations.FetchedWordRunsNext := by
  intro s nbits w i h
  refine ⟨rfl, ?_⟩
  rw [step_nil rfl]
  exact engineStep_busy rfl (decode_of_decodeTableWord h)

/-- Settles O52, check by check in R66's order. -/
theorem commandAcceptance : Obligations.CommandAcceptance :=
  ⟨fun w s => ⟨fun hr => hostStep_command_refused (commandRefusal_notReady w hr),
    fun hr hb => hostStep_command_refused (commandRefusal_busy w hr hb),
    fun _ hr hb hd => hostStep_command_refused (commandRefusal_reserved hr hb hd),
    fun i hr hb hd => hostStep_command_accepted ((commandRefusal_none_iff w s).2 ⟨hr, hb, i, hd⟩)⟩,
    rfl, rfl, rfl⟩

end Sys2Proof.EncodingProofs

/-! ## The rules of a command's run: what its micro-ops do, one after another -/

namespace Sys2Proof.Machine

/-! ### What a micro-op does, as a function (R67) -/

/-- The line the micro-op drives, if it drives one, is an output (R45). -/
def drivesOutput : MicroOp → State → Prop
  | .drive l _, s => s.dir l = .out
  | _, _ => True

/-- What a micro-op leaves behind when it completes. -/
def effect : MicroOp → State → State
  | .setDir l d, s => setDir l d s
  | .drive l v, s => (s.putLatch l v).emit (.drv l v)
  | .delay, s => delay s
  | .releaseAndClear, s => { setDir .sda .inp s with rxData := 0x00#8 }
  | .sampleAck, s => { afterSample .sda (sampleValue .sda s) s with ack := ackOf (sampleValue .sda s) }
  | .sampleRx, s =>
    { afterSample .sda (sampleValue .sda s) s with rxData := shiftIn s.rxData (sampleValue .sda s) }
  | .reclaimAndDiag, s => if s.ack then setDir .sda .out s else diagNack (setDir .sda .out s)

/-- A micro-op that drives no input completes with its effect (R45, R67). -/
theorem perform_of_drivesOutput {u : MicroOp} {s : State} (h : drivesOutput u s) :
    perform u s = .next (effect u s) := by
  cases u with
  | drive l v => exact drive_out h
  | _ => rfl

/-- A micro-op that completes drives no input, and leaves its effect. -/
theorem drivesOutput_and_eq_effect {u : MicroOp} {s t : State} (h : perform u s = .next t) :
    drivesOutput u s ∧ t = effect u s := by
  have hd : drivesOutput u s := by
    cases u with
    | drive l v =>
      cases hl : s.dir l with
      | inp => simp [perform, drive_inp hl] at h
      | out => exact hl
    | _ => trivial
  exact ⟨hd, by simpa [perform_of_drivesOutput hd] using h.symm⟩

/-- Micro-op `q` of a command, not its last: its effect, and the counter one on (R28). -/
theorem exec_inner_effect {i : Instr} {q : SeqNo} (u : MicroOp) {s : State} (hq : s.seq = q)
    (hu : uopTable i q.toNat = some u) (hd : drivesOutput u s) (hl : q.toNat + 1 ≠ stepCount i) :
    exec i s = .next { effect u s with seq := q + 1#6 } := by
  subst hq
  exact exec_inner_row rfl hu (perform_of_drivesOutput hd) hl

/-- The last micro-op of a command: its effect, and `SEQ` and `BUSY` cleared (R28). -/
theorem exec_last_effect {i : Instr} {q : SeqNo} (u : MicroOp) {s : State} (hq : s.seq = q)
    (hu : uopTable i q.toNat = some u) (hd : drivesOutput u s) (hl : q.toNat + 1 = stepCount i) :
    exec i s = .next { effect u s with seq := 0#6, busy := false } := by
  subst hq
  have hv : perform u s = .next (effect u s) := perform_of_drivesOutput hd
  obtain ⟨_, hseq, _⟩ := perform_frame hv
  rw [exec_eq, runMicroOp_of hu hv, advance_last (by rwa [hseq])]

/-! ### What the first micro-ops of a command do together -/

/-- What the first `k` micro-ops of a command do to a state, the counter left as it is; the trace holds their events alone. -/
def effects (i : Instr) : Nat → State → State
  | 0, s => { s with trace := [] }
  | k + 1, s => ((uopTable i k).elim id effect) (effects i k s)

theorem effects_succ {i : Instr} {k : Nat} {u : MicroOp} (hu : uopTable i k = some u) (s : State) :
    effects i (k + 1) s = effect u (effects i k s) := by
  simp [effects, hu]

/-- The state with the events `tr` before its own, and the counter at `q`. -/
def resumed (tr : List Event) (q : SeqNo) (s : State) : State :=
  { s with trace := tr ++ s.trace, seq := q }

theorem emit_resumed (tr : List Event) (q : SeqNo) (s : State) (e : Event) :
    (resumed tr q s).emit e = resumed tr q (s.emit e) := by
  simp [State.emit, resumed]

theorem putDir_resumed (tr : List Event) (q : SeqNo) (s : State) (l : Line) (d : Dir) :
    (resumed tr q s).putDir l d = resumed tr q (s.putDir l d) := by
  cases l <;> rfl

theorem putLatch_resumed (tr : List Event) (q : SeqNo) (s : State) (l : Line) (v : Level) :
    (resumed tr q s).putLatch l v = resumed tr q (s.putLatch l v) := by
  cases l <;> rfl

theorem setDir_resumed (tr : List Event) (q : SeqNo) (s : State) (l : Line) (d : Dir) :
    setDir l d (resumed tr q s) = resumed tr q (setDir l d s) := by
  rw [setDir, putDir_resumed, emit_resumed, setDir]

theorem sampleValue_resumed (tr : List Event) (q : SeqNo) (s : State) (l : Line) :
    sampleValue l (resumed tr q s) = sampleValue l s := by
  cases l <;> rfl

theorem afterSample_resumed (tr : List Event) (q : SeqNo) (s : State) (l : Line) (v : Level) :
    afterSample l v (resumed tr q s) = resumed tr q (afterSample l v s) := by
  simp [afterSample, resumed]

/-- No micro-op reads the trace or the counter (R8, R28). -/
theorem effect_resumed (u : MicroOp) (tr : List Event) (q : SeqNo) (s : State) :
    effect u (resumed tr q s) = resumed tr q (effect u s) := by
  cases u with
  | setDir l d => exact setDir_resumed tr q s l d
  | drive l v => simp only [effect, putLatch_resumed, emit_resumed]
  | delay => exact emit_resumed tr q s .dly
  | releaseAndClear => simp only [effect, setDir_resumed]; rfl
  | sampleAck => simp only [effect, sampleValue_resumed, afterSample_resumed]; rfl
  | sampleRx => simp only [effect, sampleValue_resumed, afterSample_resumed]; rfl
  | reclaimAndDiag =>
    have hack : (resumed tr q s).ack = s.ack := rfl
    simp only [effect, diagNack, hack, setDir_resumed, emit_resumed]
    split <;> rfl

/-- `START` as a whole (R80). -/
theorem start_effects (s : State) : effects .start (stepCount .start) s = { s with
    sclDir := .out, sclOut := .low, sdaDir := .out, sdaOut := .low,
    trace := [.dir .sda .out, .drv .sda .high, .dir .scl .out, .drv .scl .high, .dly, .drv .sda .low, .dly,
      .drv .scl .low] } :=
  rfl

/-- `STOP` as a whole (R81). -/
theorem stop_effects (s : State) : effects .stop (stepCount .stop) s = { s with
    sclOut := .high, sdaDir := .out, sdaOut := .high,
    trace := [.dir .sda .out, .drv .sda .low, .drv .scl .high, .dly, .drv .sda .high, .dly] } :=
  rfl

/-! ### What a command that only drives leaves unchanged (R80, R81, R90) -/

/-- The counter's move writes `SEQ` and `BUSY` and nothing else (R28). -/
theorem advance_frame (n : Nat) (s : State) :
    advance n s = { s with seq := (advance n s).seq, busy := (advance n s).busy } := by
  unfold advance
  split <;> rfl

/-- `START`, `STOP` and `WRITE_BYTE` neither sample nor clear a register: their micro-ops write the lines and the trace. -/
theorem driving_row_frame {i : Instr} {k : Nat} {u : MicroOp} {s t : State}
    (hi : i = .start ∨ i = .stop ∨ ∃ b, i = .writeByte b) (hu : uopTable i k = some u) (h : perform u s = .next t) :
    t = { s with
      sclDir := t.sclDir, sclOut := t.sclOut, sdaDir := t.sdaDir, sdaOut := t.sdaOut, trace := t.trace } := by
  obtain ⟨_, rfl⟩ := drivesOutput_and_eq_effect h
  have hrow := uopTable_rowOf hu
  cases u with
  | setDir l d => cases l <;> rfl
  | drive l v => cases l <;> rfl
  | delay => rfl
  | releaseAndClear | sampleRx =>
    obtain ⟨⟨a, rfl⟩, _⟩ := hrow
    simp at hi
  | sampleAck | reclaimAndDiag =>
    obtain ⟨rfl, _⟩ := hrow
    simp at hi

end Sys2Proof.Machine

namespace Sys2Proof.Safety

open Sys2Proof.Machine

/-! ### What a run of a command has done (R28, R68) -/

/-- A step of a command in flight, the lines it drives being outputs: the next micro-op's effect, then the counter. -/
theorem step_eq_effect {i : Instr} {u : MicroOp} {s : State} (h : inFlight i s) (hl : reliedLinesOut i s)
    (hu : uopTable i s.seq.toNat = some u) : step s = .next (advance (stepCount i) (effect u s)) := by
  obtain ⟨w, v, hw, hv⟩ := exists_perform_of_reliedLinesOut (lt_stepCount_of_uopTable hu) hl
  obtain rfl : u = w := Option.some.inj (hu.symm.trans hw)
  obtain ⟨_, rfl⟩ := drivesOutput_and_eq_effect hv
  rw [step_inFlight h, exec_eq, runMicroOp_of hu hv]

/-- One more step of a run: one more micro-op's effect, then the counter. -/
theorem run_succ_effects {i : Instr} {s : State} (h : justAccepted i s) (hl : reliedLinesOut i s) {k : Nat}
    (hk : k < stepCount i) (hrun : run k s = .next (resumed s.trace (BitVec.ofNat 6 k) (effects i k s))) :
    run (k + 1) s = .next (advance (stepCount i) (resumed s.trace (BitVec.ofNat 6 k) (effects i (k + 1) s))) := by
  obtain ⟨t, hrun', hf, hseq, _, htl⟩ := run_inner h hl hk
  obtain rfl : resumed s.trace (BitVec.ofNat 6 k) (effects i k s) = t := by simpa [hrun] using hrun'
  obtain ⟨u, hu⟩ : ∃ u, uopTable i k = some u :=
    Option.ne_none_iff_exists'.1 (mt (uopTable_none_iff i k).1 (Nat.not_le.2 hk))
  rw [run_succ_of_run hrun, step_eq_effect hf htl (by rwa [hseq]), effect_resumed, effects_succ hu]

theorem resumed_seq_toNat {k : Nat} (hk : k < 49) (tr : List Event) (s : State) :
    (resumed tr (BitVec.ofNat 6 k) s).seq.toNat = k := by
  simp only [resumed, BitVec.toNat_ofNat]
  omega

/-- `k` steps after acceptance the first `k` micro-ops have had their effects, and their events stand after the earlier ones. -/
theorem run_inner_effects {i : Instr} {s : State} (h : justAccepted i s) (hl : reliedLinesOut i s) {k : Nat}
    (hk : k < stepCount i) : run k s = .next (resumed s.trace (BitVec.ofNat 6 k) (effects i k s)) := by
  induction k with
  | zero =>
    obtain ⟨_, hs⟩ := h
    simp [resumed, effects, ← hs]
  | succ k ih =>
    have hseq := resumed_seq_toNat (k := k) (by have := stepCount_le i; omega) s.trace (effects i (k + 1) s)
    rw [run_succ_effects h hl (by omega) (ih (by omega)), advance_inner (by rw [hseq]; exact hk.ne)]
    simp [resumed, BitVec.ofNat_add]

/-- A command has had the effects of all its micro-ops when it completes. -/
theorem run_stepCount_effects {i : Instr} {s : State} (h : justAccepted i s) (hl : reliedLinesOut i s) :
    run (stepCount i) s = .next { resumed s.trace 0#6 (effects i (stepCount i) s) with busy := false } := by
  obtain ⟨n, hn⟩ : ∃ n, stepCount i = n + 1 := Nat.exists_eq_add_one.2 (by cases i <;> simp [stepCount])
  have hlt : n < stepCount i := by omega
  have hseq := resumed_seq_toNat (k := n) (by have := stepCount_le i; omega) s.trace (effects i (n + 1) s)
  have hrun := run_succ_effects h hl hlt (run_inner_effects h hl hlt)
  rw [advance_last (by rw [hseq, hn])] at hrun
  rw [hn, hrun]
  rfl

/-- `LINES` while both lines are outputs at one level (R24). -/
theorem linesByte_of_claimed {s : State} (v : Level) (h : linesClaimed s) (hscl : s.sclOut = v) (hsda : s.sdaOut = v) :
    linesByte s = if v = .high then 0x0F#8 else 0x05#8 := by
  obtain ⟨hcd, hdd⟩ := h
  simp only [linesByte, hcd, hdd, hscl, hsda]
  cases v <;> rfl

end Sys2Proof.Safety

/-! ## The statements of the framing commands (spec/40_framing.md) -/

namespace Sys2Proof.FramingProofs

open Sys2Proof Sys2Proof.Machine Sys2Proof.Safety

/-- Settles O18: `START` needs no line to be an output at entry, and its eight effects together are R80's end state. -/
theorem startCompletes : Obligations.StartCompletes := by
  intro s h
  have hrun := run_stepCount_effects h (reliedLinesOut_of_justAccepted h (by simp))
  rw [start_effects] at hrun
  exact ⟨_, hrun, linesByte_of_claimed .low ⟨rfl, rfl⟩ rfl rfl, rfl⟩

/-- Settles O19: the six effects of `STOP` together are R81's end state. -/
theorem stopCompletes : Obligations.StopCompletes := by
  intro s h hscl
  have hrun := run_stepCount_effects h (reliedLinesOut_of_justAccepted h fun _ => hscl)
  rw [stop_effects] at hrun
  exact ⟨_, hrun, linesByte_of_claimed .high ⟨hscl, rfl⟩ rfl rfl, rfl⟩

/-- Settles O25: the lines are read off the effects of the first four, five and six micro-ops. -/
theorem startMakesStartCondition : Obligations.StartMakesStartCondition := by
  intro s h
  have hrun {k : Nat} (hk : k < stepCount .start) :=
    run_inner_effects h (reliedLinesOut_of_justAccepted h (by simp)) hk
  have htrace := List.append_assoc s.trace (effects .start 4 s).trace [.dly, .drv .sda .low]
  exact ⟨_, _, _, hrun (k := 4) (by decide), hrun (k := 5) (by decide), hrun (k := 6) (by decide),
    rfl, rfl, rfl, rfl, rfl, rfl, rfl, rfl, rfl, rfl, rfl, rfl, htrace.symm⟩

/-- Settles O26: the lines are read off the effects of the first three, four and five micro-ops; none writes `SCL.DIR`. -/
theorem stopMakesStopCondition : Obligations.StopMakesStopCondition := by
  intro s h hscl
  have hrun {k : Nat} (hk : k < stepCount .stop) :=
    run_inner_effects h (reliedLinesOut_of_justAccepted h fun _ => hscl) hk
  have htrace := List.append_assoc s.trace (effects .stop 3 s).trace [.dly, .drv .sda .high]
  exact ⟨_, _, _, hrun (k := 3) (by decide), hrun (k := 4) (by decide), hrun (k := 5) (by decide),
    rfl, hscl, rfl, rfl, rfl, hscl, rfl, rfl, rfl, hscl, rfl, rfl, htrace.symm⟩

/-- Settles O47: a driving command's micro-op writes the lines and the trace, the counter's move the rest. -/
theorem drivingCommandsFrame : Obligations.DrivingCommandsFrame := by
  intro i s t hi h
  rw [exec_eq] at h
  obtain ⟨u, v, hu, hv, rfl⟩ := runMicroOp_next h
  refine ⟨?_, fun hne => ?_⟩
  · rw [advance_frame, driving_row_frame hi hu hv]
  · obtain hv | ⟨rfl, _⟩ := perform_sclDir hv
    · simpa using hv
    · obtain ⟨hstart, _⟩ : rowOf i _ (.setDir .scl v.sclDir) := uopTable_rowOf hu
      exact absurd hstart hne

/-- Settles O10, row by row of R80. -/
theorem startMicroOps : Obligations.StartMicroOps :=
  fun _ => ⟨fun h => exec_inner_effect (.setDir .sda .out) h rfl trivial (by decide),
    fun h hd => exec_inner_effect (.drive .sda .high) h rfl hd (by decide),
    fun h => exec_inner_effect (.setDir .scl .out) h rfl trivial (by decide),
    fun h hd => exec_inner_effect (.drive .scl .high) h rfl hd (by decide),
    fun h => exec_inner_effect .delay h rfl trivial (by decide),
    fun h hd => exec_inner_effect (.drive .sda .low) h rfl hd (by decide),
    fun h => exec_inner_effect .delay h rfl trivial (by decide),
    fun h hd => exec_last_effect (.drive .scl .low) h rfl hd rfl⟩

/-- Settles O11, row by row of R81. -/
theorem stopMicroOps : Obligations.StopMicroOps :=
  fun _ => ⟨fun h => exec_inner_effect (.setDir .sda .out) h rfl trivial (by decide),
    fun h hd => exec_inner_effect (.drive .sda .low) h rfl hd (by decide),
    fun h hd => exec_inner_effect (.drive .scl .high) h rfl hd (by decide),
    fun h => exec_inner_effect .delay h rfl trivial (by decide),
    fun h hd => exec_inner_effect (.drive .sda .high) h rfl hd (by decide),
    fun h => exec_last_effect .delay h rfl trivial rfl⟩

end Sys2Proof.FramingProofs

/-! ## The rules of the data commands: the diagnostic, and what `WRITE_BYTE` and `WAIT_ACK` do as a whole -/

namespace Sys2Proof.Machine

/-! ### Which micro-op an event or a write of a latch comes from (R8, R20) -/

theorem eq_drive_of_effect_trace {u : MicroOp} {s : State} {l : Line} {v : Level}
    (h : (effect u s).trace = s.trace ++ [.drv l v]) : u = .drive l v := by
  cases u with
  | setDir | delay | releaseAndClear | sampleAck | sampleRx => simp [effect, setDir, delay] at h
  | drive m w => simpa [effect] using h
  | reclaimAndDiag => cases ha : s.ack <;> simp [effect, setDir, diagNack, ha] at h

theorem exists_drive_of_effect_sdaOut_ne {u : MicroOp} {s : State} (h : s.sdaOut ≠ (effect u s).sdaOut) :
    ∃ v, u = .drive .sda v := by
  cases u with
  | setDir m d => cases m <;> exact absurd rfl h
  | drive m v =>
    cases m with
    | scl => exact absurd rfl h
    | sda => exact ⟨v, rfl⟩
  | delay | releaseAndClear | sampleAck | sampleRx => exact absurd rfl h
  | reclaimAndDiag => cases ha : s.ack <;> simp [effect, setDir, diagNack, ha] at h

/-! ### The diagnostic (R93) -/

theorem effect_count_diagNack (u : MicroOp) (s : State) :
    (effect u s).trace.count .diagNack
      = s.trace.count .diagNack + if u = .reclaimAndDiag ∧ s.ack = false then 1 else 0 := by
  cases u with
  | setDir | drive | delay | releaseAndClear | sampleAck | sampleRx => simp [effect, setDir, delay]
  | reclaimAndDiag => cases ha : s.ack <;> simp [effect, setDir, diagNack, ha]

/-- The micro-op that may emit a diagnostic is step 7 of `WAIT_ACK` (R67). -/
theorem eq_reclaimAndDiag_iff_of_row {i : Instr} {u : MicroOp} {s : State} (hd : decode s.ir = .command i)
    (hu : uopTable i s.seq.toNat = some u) :
    u = .reclaimAndDiag ↔ decode s.ir = .command .waitAck ∧ s.seq = 7#6 := by
  constructor
  · rintro rfl
    obtain ⟨rfl, hk⟩ : rowOf i _ .reclaimAndDiag := uopTable_rowOf hu
    exact ⟨hd, BitVec.eq_of_toNat_eq hk⟩
  · rintro ⟨hw, hs⟩
    obtain rfl : i = .waitAck := by simpa [hd] using hw
    rw [hs] at hu
    exact (Option.some.inj hu).symm

/-! ### `WRITE_BYTE` as a whole (R90, R91) -/

/-- `WRITE_BYTE` drives the data line only at the first step of a bit position. -/
theorem writeByteUop_drive_sda {b : Byte} {k : Nat} {v : Level} (h : writeByteUop b k = some (.drive .sda v)) :
    ∃ j < 8, k = 1 + 6 * j := by
  unfold writeByteUop at h
  split_ifs at h with h0 h48
  · cases h
  · split at h
    · exact ⟨(k - 1) / 6, by omega, by omega⟩
    all_goals cases h

/-- One bit position: the bit on the data line, one clock pulse, and `W` of the bit in the trace (R9). -/
theorem writeByte_effects_bit (b : Byte) {k : Nat} (hk : k < 8) (s : State) :
    effects (.writeByte b) (1 + 6 * (k + 1)) s = { effects (.writeByte b) (1 + 6 * k) s with
      sclOut := .low, sdaOut := wireBit b k,
      trace := (effects (.writeByte b) (1 + 6 * k) s).trace ++ Safety.wireOut (wireBit b k) } := by
  have hrows := writeByteUop_rows b hk
  simp only [Nat.add_comm _ (6 * k)] at hrows
  obtain ⟨hdata, hd1, hhigh, hd2, hlow, hd3⟩ := hrows
  have hend : 1 + 6 * (k + 1) = 6 * k + 6 + 1 := by omega
  have hbegin : 1 + 6 * k = 6 * k + 1 := by omega
  have row {j : Nat} {u : MicroOp} := effects_succ (i := .writeByte b) (k := j) (u := u)
  rw [hend, hbegin, row hd3, row hlow, row hd2, row hhigh, row hd1, row hdata]
  simp [effect, delay, State.emit, State.putLatch, Safety.wireOut]

/-- The first `k + 1` bit positions of `WRITE_BYTE b`: the clock low, the data line at bit position `k`, and each bit's `W` (R90). -/
theorem writeByte_effects_bits (b : Byte) {k : Nat} (hk : k < 8) (s : State) :
    effects (.writeByte b) (1 + 6 * (k + 1)) s = { s with
      sclOut := .low, sdaDir := .out, sdaOut := wireBit b k,
      trace := .dir .sda .out :: (List.range (k + 1)).flatMap fun j => Safety.wireOut (wireBit b j) } := by
  induction k with
  | zero => exact writeByte_effects_bit b hk s
  | succ k ih =>
    rw [writeByte_effects_bit b hk, ih (by omega), List.range_succ (n := k + 1)]
    simp

/-- `WRITE_BYTE b` as a whole (R90). -/
theorem writeByte_effects (b : Byte) (s : State) :
    effects (.writeByte b) (stepCount (.writeByte b)) s = { s with
      sclOut := .low, sdaDir := .out, sdaOut := wireBit b 7,
      trace := .dir .sda .out :: (List.range 8).flatMap fun j => Safety.wireOut (wireBit b j) } :=
  writeByte_effects_bits b (k := 7) (by decide) s

/-- At the start of each bit position the clock is as low as at entry (R91). -/
theorem writeByte_effects_sclOut (b : Byte) {k : Nat} (hk : k < 8) {s : State} (h : s.sclOut = .low) :
    (effects (.writeByte b) (1 + 6 * k) s).sclOut = .low := by
  cases k with
  | zero => exact h
  | succ k => rw [writeByte_effects_bits b (by omega)]

/-! ### `WAIT_ACK` as a whole (R92 to R94) -/

/-- The one sample of `WAIT_ACK`, of a released data line, as the level and the flag it leaves (R47, R92). -/
theorem effect_sampleAck_released {s : State} (h : s.sdaDir = .inp) :
    effect .sampleAck s = { s with
      ack := s.peerPullAt 0, peer := s.peer.tail, draws := s.draws + 1,
      trace := s.trace ++ [.smp .sda (if s.peerPullAt 0 then .low else .high)] } := by
  rw [effect, sampleValue_released (l := .sda) h]
  cases s.peerPullAt 0 <;> rfl

/-- The last micro-op of `WAIT_ACK`: the data line claimed again, and a diagnostic if `ACK` is 0 (R92, R93). -/
theorem effect_reclaimAndDiag (s : State) :
    effect .reclaimAndDiag s = { s with
      sdaDir := .out, trace := s.trace ++ .dir .sda .out :: if s.ack then [] else [.diagNack] } := by
  cases ha : s.ack <;> simp [effect, ha, setDir, diagNack, State.emit, State.putDir]

/-- `WAIT_ACK` as a whole, whatever the peer answers (R92). -/
theorem waitAck_effects (s : State) : effects .waitAck (stepCount .waitAck) s = { s with
    sclOut := .low, sdaDir := .out, ack := s.peerPullAt 0, peer := s.peer.tail, draws := s.draws + 1,
    trace := [.dir .sda .inp, .dly, .drv .scl .high, .dly, .smp .sda (if s.peerPullAt 0 then .low else .high),
      .drv .scl .low, .dly, .dir .sda .out] ++ if s.peerPullAt 0 then [] else [.diagNack] } := by
  have hlast : effects .waitAck 8 s
      = effect .reclaimAndDiag (effect .delay (effect (.drive .scl .low) (effect .sampleAck (effects .waitAck 4 s)))) :=
    rfl
  rw [stepCount, hlast, effect_sampleAck_released rfl, effect_reclaimAndDiag]
  rfl

/-- `WAIT_ACK` neither drives the data line nor touches `RXDATA`: its micro-ops write `SCL.OUT`, `SDA.DIR`, `ACK` and the trace, and use
up the peer's answer. -/
theorem waitAck_row_frame {k : Nat} {u : MicroOp} (hu : uopTable .waitAck k = some u) (s : State) :
    effect u s = { s with
      sclOut := (effect u s).sclOut, sdaDir := (effect u s).sdaDir, ack := (effect u s).ack,
      trace := (effect u s).trace, peer := (effect u s).peer, draws := (effect u s).draws } := by
  have hrow := uopTable_rowOf hu
  cases u with
  | setDir l d =>
    cases l with
    | scl => simp [rowOf] at hrow
    | sda => rfl
  | drive l v =>
    cases l with
    | scl => rfl
    | sda => simp [rowOf] at hrow
  | delay | sampleAck => rfl
  | releaseAndClear | sampleRx => simp [rowOf] at hrow
  | reclaimAndDiag => rw [effect_reclaimAndDiag]

end Sys2Proof.Machine

/-! ## The statements of the data commands (spec/41_write_ack.md) -/

namespace Sys2Proof.WriteAckProofs

open Sys2Proof Sys2Proof.Machine Sys2Proof.Safety

/-- Settles O20: eight bit positions of six effects each, after the claim of the data line. -/
theorem writeByteCompletes : Obligations.WriteByteCompletes := by
  intro b s h hscl
  have hrun := run_stepCount_effects h (reliedLinesOut_of_justAccepted h fun _ => hscl)
  rw [writeByte_effects] at hrun
  exact hrun

/-- Settles O21: the eight effects of `WAIT_ACK` together, its sample being of a released line. -/
theorem waitAckCompletes : Obligations.WaitAckCompletes := by
  intro s h hscl
  have hrun := run_stepCount_effects h (reliedLinesOut_of_justAccepted h fun _ => hscl)
  rw [waitAck_effects] at hrun
  simpa [resumed, stepCount] using hrun

/-- Settles O27: the trace of R90 read for its drives; and the data line is written only by the drive that begins a bit position, where
the clock is low. -/
theorem writeByteDrivesBitsMsbFirst : Obligations.WriteByteDrivesBitsMsbFirst := by
  intro b s h hscl
  have hl := reliedLinesOut_of_justAccepted h fun _ => hscl
  refine ⟨⟨_, _, writeByteCompletes b s h hscl, rfl, rfl, rfl⟩, fun hlow k hk => ?_⟩
  have hrun := run_inner_effects h hl hk
  obtain ⟨u, hu⟩ : ∃ u, uopTable (.writeByte b) k = some u :=
    Option.ne_none_iff_exists'.1 (mt (uopTable_none_iff _ k).1 (Nat.not_le.2 hk))
  have hdrive {v : Level} (hv : u = .drive .sda v) : (effects (.writeByte b) k s).sclOut = .low := by
    obtain ⟨j, hj, rfl⟩ := writeByteUop_drive_sda (hu.trans (congrArg some hv))
    exact writeByte_effects_sclOut b hj hlow
  refine ⟨_, _, hrun, run_succ_effects h hl hk hrun, ?_⟩
  rw [effects_succ hu]
  refine ⟨fun ⟨w, hw⟩ => ?_, fun hne => ?_⟩
  · exact hdrive (eq_drive_of_effect_trace (v := w) (by simpa [resumed] using hw))
  · obtain ⟨v, hv⟩ := exists_drive_of_effect_sdaOut_ne (by simpa [resumed] using hne)
    exact hdrive hv

/-- Settles O44: the one micro-op that can emit a diagnostic has one row, and the run of `WAIT_ACK` reaches it with `ACK` as sampled. -/
theorem oneDiagnosticPerNack : Obligations.OneDiagnosticPerNack := by
  refine ⟨fun s t hn h => ?_, fun s h hscl => ⟨_, waitAckCompletes s h hscl, ?_⟩, fun s => rfl⟩
  · obtain ⟨p, rfl, ⟨_, hb, rfl⟩ | ⟨i, u, v, ht, hb, hd, hu, hv, rfl⟩ | ⟨a, ht, ha⟩ | ⟨ok, hr, _⟩⟩ := step_next_cases h
    · simp [hb]
    · obtain ⟨_, rfl⟩ := drivesOutput_and_eq_effect hv
      simp [effect_count_diagNack, eq_reclaimAndDiag_iff_of_row hd hu, ht, hb, and_assoc]
    · rw [hostStep_frame ha]
      simp [ht]
    · exact absurd hr (hn ok)
  · cases s.peerPullAt 0 <;> simp [releasedLevel]

/-- Settles O48: a micro-op of `WAIT_ACK` writes these, the counter's move the rest. -/
theorem waitAckFrame : Obligations.WaitAckFrame := by
  intro s t h
  rw [exec_eq] at h
  obtain ⟨u, v, hu, hv, rfl⟩ := runMicroOp_next h
  obtain ⟨_, rfl⟩ := drivesOutput_and_eq_effect hv
  rw [advance_frame, waitAck_row_frame hu]

/-- Settles O12, row by row of a bit position. -/
theorem writeByteMicroOps : Obligations.WriteByteMicroOps := by
  refine fun b s => ⟨fun h => ?claim, fun k hk => ?bit⟩
  case claim =>
    exact exec_inner_effect (q := 0#6) (.setDir .sda .out) (BitVec.eq_of_toNat_eq h) rfl trivial (by simp [stepCount])
  case bit =>
    obtain ⟨hdata, hd1, hhigh, hd2, hlow, hd3⟩ := writeByteUop_rows b hk
    have inner {j : Nat} {u : MicroOp} (hj : s.seq.toNat = j) (hu : writeByteUop b j = some u) (hd : drivesOutput u s)
        (hlt : j < 48) : exec (.writeByte b) s = .next { effect u s with seq := s.seq + 1#6 } :=
      exec_inner_row hj hu (perform_of_drivesOutput hd) (by simp only [stepCount]; omega)
    refine ⟨fun h hd => inner h hdata hd (by omega), fun h => inner h hd1 trivial (by omega),
      fun h hd => inner h hhigh hd (by omega), fun h => inner h hd2 trivial (by omega),
      fun h hd => inner h hlow hd (by omega), fun h _ => inner h hd3 trivial (by omega), fun h h7 => ?_⟩
    subst h7
    exact exec_last_effect .delay rfl (by rw [h]; rfl) trivial (by rw [h]; rfl)

/-- Settles O13, row by row of R92. -/
theorem waitAckMicroOps : Obligations.WaitAckMicroOps := by
  intro s
  refine ⟨fun h => exec_inner_effect (.setDir .sda .inp) h rfl trivial (by decide),
    fun h => exec_inner_effect .delay h rfl trivial (by decide),
    fun h hd => exec_inner_effect (.drive .scl .high) h rfl hd (by decide),
    fun h => exec_inner_effect .delay h rfl trivial (by decide),
    fun h hd => ?sample,
    fun h hd => exec_inner_effect (.drive .scl .low) h rfl hd (by decide),
    fun h => exec_inner_effect .delay h rfl trivial (by decide),
    fun h ha => ?ack, fun h ha => ?nack⟩
  case sample =>
    rw [exec_inner_effect .sampleAck h rfl trivial (by decide), effect_sampleAck_released hd]
    rfl
  case ack | nack =>
    rw [exec_last_effect .reclaimAndDiag h rfl trivial rfl, effect_reclaimAndDiag, ha]
    rfl

end Sys2Proof.WriteAckProofs

/-! ## The rules of `READ_BYTE`: the receive shift, the peer's answers one after another, and what the command does as a whole -/

namespace Sys2Proof.Machine

/-! ### The receive shift (R18, R101) -/

/-- The receive shift is the library's shift of one bit into a bit vector. -/
theorem shiftIn_eq_shiftConcat (acc : Byte) (v : Level) : shiftIn acc v = acc.shiftConcat (levelBit v) := by
  apply BitVec.eq_of_getLsbD_eq
  intro i hi
  rw [BitVec.getLsbD_shiftConcat]
  cases i with
  | zero => simp [shiftIn]
  | succ i => simp [shiftIn, hi, BitVec.getLsbD_eq_getElem (Nat.lt_of_succ_lt hi)]

theorem toNat_shiftIn (acc : Byte) (v : Level) :
    (shiftIn acc v).toNat = (2 * acc.toNat + (levelBit v).toNat) % 256 := by
  rw [shiftIn_eq_shiftConcat, BitVec.toNat_shiftConcat, Nat.shiftLeft_eq, Nat.mul_comm]

theorem getLsbD_shiftIn_zero (acc : Byte) (v : Level) : (shiftIn acc v).getLsbD 0 = levelBit v := by
  simp [shiftIn_eq_shiftConcat]

theorem getLsbD_shiftIn_succ (acc : Byte) (v : Level) {i : Nat} (hi : i < 7) :
    (shiftIn acc v).getLsbD (i + 1) = acc.getLsbD i := by
  have hw : i + 1 < 8 := by omega
  rw [shiftIn_eq_shiftConcat, BitVec.getLsbD_shiftConcat]
  simp only [hw, decide_true, Bool.true_and, Nat.add_one_ne_zero, if_false, Nat.add_sub_cancel]

theorem levelBit_releasedLevel (pulled : Bool) : levelBit (Safety.releasedLevel pulled) = !pulled := by
  cases pulled <;> rfl

/-- What the peer's next `k` answers leave in a cleared `RXDATA`; for eight of them, `Safety.receivedByte`. -/
def receivedBits (s : State) (k : Nat) : Byte :=
  (List.range k).foldl (fun acc j => shiftIn acc (Safety.releasedLevel (s.peerPullAt j))) 0x00#8

theorem receivedBits_succ (s : State) (k : Nat) :
    receivedBits s (k + 1) = shiftIn (receivedBits s k) (Safety.releasedLevel (s.peerPullAt k)) := by
  simp [receivedBits, List.range_succ]

theorem receivedByte_eq_receivedBits (s : State) : Safety.receivedByte s = receivedBits s 8 := rfl

/-- Answer `j` of `k` is `k - 1 - j` places from the bottom: each later answer moves it one place up. -/
theorem getLsbD_receivedBits (s : State) {k j : Nat} (hk : k ≤ 8) (hj : j < k) :
    (receivedBits s k).getLsbD (k - 1 - j) = !(s.peerPullAt j) := by
  induction k with
  | zero => omega
  | succ k ih =>
    rw [receivedBits_succ]
    obtain rfl | hlt := Nat.eq_or_lt_of_le (Nat.lt_succ_iff.1 hj)
    · rw [Nat.add_sub_cancel, Nat.sub_self, getLsbD_shiftIn_zero, levelBit_releasedLevel]
    · obtain ⟨i, hi⟩ : ∃ i, k - j = i + 1 := Nat.exists_eq_add_one.2 (by omega)
      have hprev : k - 1 - j = i := by omega
      rw [Nat.add_sub_cancel, hi, getLsbD_shiftIn_succ _ _ (by omega), ← hprev, ih (by omega) hlt]

/-! ### One sample and one bit position (R47, R100) -/

/-- The peer's next answer after `k` have been used up. -/
theorem peerPullAt_zero_of_drop {s t : State} {k : Nat} (hp : t.peer = s.peer.drop k) (hd : t.draws = s.draws + k) :
    t.peerPullAt 0 = s.peerPullAt k := by
  simp [State.peerPullAt, hp, hd]

/-- A sample of `READ_BYTE`, of a released data line: what the peer leaves there is shifted in (R47, R101). -/
theorem effect_sampleRx_released {s : State} (h : s.sdaDir = .inp) :
    effect .sampleRx s = { s with
      rxData := shiftIn s.rxData (Safety.releasedLevel (s.peerPullAt 0)), peer := s.peer.tail, draws := s.draws + 1,
      trace := s.trace ++ [.smp .sda (Safety.releasedLevel (s.peerPullAt 0))] } := by
  rw [effect, sampleValue_released (l := .sda) h]
  rfl

/-- One bit position: one clock pulse, the peer's answer shifted in, and `R` of it in the trace (R9). -/
theorem readByte_effects_bit (a : Bool) {k : Nat} (hk : k < 8) {s e : State}
    (he : effects (.readByte a) (1 + 5 * k) s = e) (h : e.sdaDir = .inp) :
    effects (.readByte a) (1 + 5 * (k + 1)) s = { e with
      sclOut := .low, rxData := shiftIn e.rxData (Safety.releasedLevel (e.peerPullAt 0)),
      peer := e.peer.tail, draws := e.draws + 1,
      trace := e.trace ++ Safety.wireIn (Safety.releasedLevel (e.peerPullAt 0)) } := by
  have hrows := readByteUop_rows a hk
  simp only [Nat.add_comm _ (5 * k)] at hrows
  obtain ⟨hhigh, hd1, hsample, hlow, hd2⟩ := hrows
  have hend : 1 + 5 * (k + 1) = 5 * k + 5 + 1 := by omega
  have row {j : Nat} {u : MicroOp} := effects_succ (i := .readByte a) (k := j) (u := u)
  rw [Nat.add_comm] at he
  rw [hend, row hd2, row hlow, row hsample, row hd1, row hhigh, he, effect_sampleRx_released]
  · simp [effect, delay, State.emit, State.putLatch, State.peerPullAt, Safety.wireIn]
  · exact h

/-! ### `READ_BYTE` as a whole (R100 to R102) -/

/-- The first `k + 1` bit positions of `READ_BYTE`: the clock low, the data line released, and each answer's `R` (R100). -/
theorem readByte_effects_bits (a : Bool) {k : Nat} (hk : k < 8) (s : State) :
    effects (.readByte a) (1 + 5 * (k + 1)) s = { s with
      sclOut := .low, sdaDir := .inp, rxData := receivedBits s (k + 1),
      peer := s.peer.drop (k + 1), draws := s.draws + (k + 1),
      trace := .dir .sda .inp ::
        (List.range (k + 1)).flatMap fun j => Safety.wireIn (Safety.releasedLevel (s.peerPullAt j)) } := by
  induction k with
  | zero =>
    rw [readByte_effects_bit a hk (s := s) rfl rfl, List.drop_one]
    rfl
  | succ k ih =>
    rw [readByte_effects_bit a hk (ih (by omega)) rfl, peerPullAt_zero_of_drop (s := s) (k := k + 1) rfl rfl,
      receivedBits_succ s (k + 1), List.range_succ (n := k + 1)]
    simp [Nat.add_assoc]

/-- `READ_BYTE a` as a whole, whatever the peer answers: the eight bit positions, then the acknowledge pulse (R100). -/
theorem readByte_effects (a : Bool) (s : State) : effects (.readByte a) (stepCount (.readByte a)) s = { s with
    sclOut := .low, sdaDir := .out, sdaOut := ackLevel a, rxData := Safety.receivedByte s,
    peer := s.peer.drop 8, draws := s.draws + 8,
    trace := .dir .sda .inp ::
      (List.range 8).flatMap (fun k => Safety.wireIn (Safety.releasedLevel (s.peerPullAt k)))
      ++ [.dir .sda .out, .drv .sda (ackLevel a), .drv .scl .high, .dly, .drv .scl .low, .dly] } := by
  have htail : effects (.readByte a) 47 s
      = effect .delay (effect (.drive .scl .low) (effect .delay (effect (.drive .scl .high)
          (effect (.drive .sda (ackLevel a)) (effect (.setDir .sda .out) (effects (.readByte a) (1 + 5 * (7 + 1)) s)))))) :=
    rfl
  rw [stepCount, htail, readByte_effects_bits a (by decide), receivedByte_eq_receivedBits]
  simp [effect, setDir, delay, State.emit, State.putDir, State.putLatch]

/-- From step 41 on the data line is an output (R102). -/
theorem readByte_effects_sdaDir (a : Bool) {k : Nat} (hk : 42 ≤ k) (hk' : k ≤ 47) (s : State) :
    (effects (.readByte a) k s).sdaDir = .out := by
  interval_cases k <;> rfl

/-- From step 42 on the data line is driven at the acknowledge level (R102). -/
theorem readByte_effects_sdaOut (a : Bool) {k : Nat} (hk : 43 ≤ k) (hk' : k ≤ 47) (s : State) :
    (effects (.readByte a) k s).sdaOut = ackLevel a := by
  interval_cases k <;> rfl

/-- After step 42 there is one clock pulse (R102). -/
theorem readByte_effects_trace_of_pulse (a : Bool) (s : State) :
    (effects (.readByte a) 47 s).trace
      = (effects (.readByte a) 43 s).trace ++ [.drv .scl .high, .dly, .drv .scl .low, .dly] := by
  have hpulse : effects (.readByte a) 47 s = effect .delay (effect (.drive .scl .low) (effect .delay
      (effect (.drive .scl .high) (effects (.readByte a) 43 s)))) := rfl
  simp [hpulse, effect, delay]

/-- `READ_BYTE` does not touch `ACK` or the clock's direction: its micro-ops write the latches, `SDA.DIR`, `RXDATA` and the trace, and
use up the peer's answers. -/
theorem readByte_row_frame {a : Bool} {k : Nat} {u : MicroOp} (hu : uopTable (.readByte a) k = some u) (s : State) :
    effect u s = { s with
      sclOut := (effect u s).sclOut, sdaDir := (effect u s).sdaDir, sdaOut := (effect u s).sdaOut,
      rxData := (effect u s).rxData, trace := (effect u s).trace, peer := (effect u s).peer,
      draws := (effect u s).draws } := by
  have hrow := uopTable_rowOf hu
  cases u with
  | setDir l d =>
    cases l with
    | scl => simp [rowOf] at hrow
    | sda => rfl
  | drive l v => cases l <;> rfl
  | delay | releaseAndClear | sampleRx => rfl
  | sampleAck | reclaimAndDiag => simp [rowOf] at hrow

end Sys2Proof.Machine

namespace Sys2Proof.Safety

open Sys2Proof.Machine

/-- Up to and including completion, `k` steps have had the effects of the first `k` micro-ops; only `SEQ` and `BUSY` tell the last step
from the ones before it (R28, R68). -/
theorem exists_run_effects {i : Instr} {s : State} (h : justAccepted i s) (hl : reliedLinesOut i s) {k : Nat}
    (hk : k ≤ stepCount i) : ∃ q b, run k s = .next { resumed s.trace q (effects i k s) with busy := b } := by
  obtain rfl | hlt := Nat.eq_or_lt_of_le hk
  · exact ⟨_, _, run_stepCount_effects h hl⟩
  · exact ⟨_, _, run_inner_effects h hl hlt⟩

end Sys2Proof.Safety

/-! ## The statements of `READ_BYTE` (spec/42_read.md) -/

namespace Sys2Proof.ReadProofs

open Sys2Proof Sys2Proof.Machine Sys2Proof.Safety

/-- Settles O22: the effects of the 47 micro-ops together, with `RXDATA` read off bit by bit. -/
theorem readByteCompletes : Obligations.ReadByteCompletes := by
  intro a s h hscl
  have hrun := run_stepCount_effects h (reliedLinesOut_of_justAccepted h fun _ => hscl)
  rw [readByte_effects] at hrun
  refine ⟨_, hrun, fun k hk => getLsbD_receivedBits s le_rfl hk, ?_⟩
  simp only [resumed, ← List.append_assoc]
  rfl

/-- Settles O29: bit `7 - k` of `RXDATA` and of `b` are both the complement of whether the peer pulls at sample `k`. -/
theorem readByteReturnsThePeersByte : Obligations.ReadByteReturnsThePeersByte := by
  intro b a s h hscl hpeer
  obtain ⟨t, hrun, hbits, ht⟩ := readByteCompletes a s h hscl
  have hbit {k : Nat} (hk : k < 8) : t.rxData.getLsbD (7 - k) = b.getLsbD (7 - k) := by
    rw [hbits k hk, ← levelBit_releasedLevel, hpeer k hk]
    cases b.getLsbD (7 - k) <;> rfl
  refine ⟨t, hrun, by rw [ht], BitVec.eq_of_getLsbD_eq fun i hi => ?_⟩
  have hi' : 7 - (7 - i) = i := by omega
  simpa only [hi'] using hbit (k := 7 - i) (by omega)

/-- Settles O28: the level is read off the effects of the first `k` micro-ops, and the last four are the clock pulse. -/
theorem readByteAcknowledgeLevel : Obligations.ReadByteAcknowledgeLevel := by
  intro a s h hscl
  have hrun {k : Nat} (hk : k ≤ 47) :=
    exists_run_effects h (reliedLinesOut_of_justAccepted h fun _ => hscl) (k := k) hk
  refine ⟨fun k hk hk' => ?level, ?pulse⟩
  case level =>
    obtain ⟨q, b, hrunk⟩ := hrun hk'
    exact ⟨_, hrunk, readByte_effects_sdaDir a hk hk' s, fun hk43 => readByte_effects_sdaOut a hk43 hk' s⟩
  case pulse =>
    obtain ⟨_, _, h43⟩ := hrun (k := 43) (by decide)
    obtain ⟨_, _, h47⟩ := hrun (k := 47) (by decide)
    exact ⟨_, _, h43, h47, by simp [resumed, readByte_effects_trace_of_pulse]⟩

/-- Settles O14, row by row of a bit position and then of the acknowledge. -/
theorem readByteMicroOps : Obligations.ReadByteMicroOps := by
  intro a s
  have row {j : Nat} (u : MicroOp) (hj : s.seq.toNat = j) (hu : readByteUop a j = some u) (hd : drivesOutput u s)
      (hlt : j < 46) : exec (.readByte a) s = .next { effect u s with seq := s.seq + 1#6 } :=
    exec_inner_row hj hu (perform_of_drivesOutput hd) (by simp only [stepCount]; omega)
  have rowAt {q : SeqNo} (u : MicroOp) (hq : s.seq.toNat = q.toNat) (hu : readByteUop a q.toNat = some u)
      (hd : drivesOutput u s) (hlt : q.toNat < 46) : exec (.readByte a) s = .next { effect u s with seq := q + 1#6 } := by
    rw [row u hq hu hd hlt, BitVec.eq_of_toNat_eq hq]
  refine ⟨fun h => rowAt (q := 0#6) .releaseAndClear h rfl trivial (by decide), fun k hk => ?bit,
    fun h => rowAt (q := 41#6) (.setDir .sda .out) h rfl trivial (by decide),
    fun h hd => rowAt (q := 42#6) (.drive .sda (ackLevel a)) h rfl hd (by decide),
    fun h hd => rowAt (q := 43#6) (.drive .scl .high) h rfl hd (by decide),
    fun h => rowAt (q := 44#6) .delay h rfl trivial (by decide),
    fun h hd => rowAt (q := 45#6) (.drive .scl .low) h rfl hd (by decide),
    fun h => exec_last_effect .delay rfl (by rw [h]; rfl) trivial (by rw [h]; rfl)⟩
  case bit =>
    obtain ⟨hhigh, hd1, hsample, hlow, hd2⟩ := readByteUop_rows a hk
    refine ⟨fun h hd => row _ h hhigh hd (by omega), fun h => row _ h hd1 trivial (by omega), fun h hd => ?_,
      fun h hd => row _ h hlow hd (by omega), fun h => row _ h hd2 trivial (by omega)⟩
    rw [row _ h hsample trivial (by omega), effect_sampleRx_released hd, shiftIn_eq_ite]
    cases s.peerPullAt 0 <;> rfl

/-- Settles O49: a micro-op of `READ_BYTE` writes these, the counter's move the rest. -/
theorem readByteFrame : Obligations.ReadByteFrame := by
  intro a s t h
  rw [exec_eq] at h
  obtain ⟨u, v, hu, hv, rfl⟩ := runMicroOp_next h
  obtain ⟨_, rfl⟩ := drivesOutput_and_eq_effect hv
  rw [advance_frame, readByte_row_frame hu]

/-- Settles O60: the receive shift is the library's shift of one bit into a byte; the two small functions by their cases. -/
theorem receiveArithmetic : Obligations.ReceiveArithmetic :=
  ⟨toNat_shiftIn, fun v => by cases v <;> rfl, fun a => by cases a <;> rfl⟩

end Sys2Proof.ReadProofs

/-! ## The rules of faults and of lists of commands: the first clock drive, and a command issued by a scheduled host -/

namespace Sys2Proof.Machine

open Sys2Proof.Safety

/-! ### The first drive of the clock line (R67, R112) -/

theorem uopTable_firstClockDrive (i : Instr) : uopTable i (firstClockDrive i) = some (.drive .scl .high) := by
  cases i <;> rfl

theorem firstClockDrive_lt_stepCount (i : Instr) : firstClockDrive i < stepCount i :=
  lt_stepCount_of_uopTable (uopTable_firstClockDrive i)

/-- No row before it drives the clock line. -/
theorem firstClockDrive_le_of_drive_row {i : Instr} {k : Nat} {v : Level} (hu : uopTable i k = some (.drive .scl v)) :
    firstClockDrive i ≤ k := by
  cases i with
  | start =>
    have hrel : reliesOn .start k .scl := reliesOn_of_drive_row hu
    exact hrel rfl
  | stop | waitAck =>
    match k, hu with
    | k + 2, _ => exact Nat.le_add_left 2 k
  | writeByte b =>
    match k, hu with
    | k + 3, _ => exact Nat.le_add_left 3 k
  | readByte a => exact uopTable_rowOf hu

/-- A command other than `START` can perform each row before it whatever the clock line is: a drive there is of the data line, which the
command has claimed itself. -/
theorem row_before_firstClockDrive {i : Instr} {k : Nat} (hi : i ≠ .start) (hk : k < firstClockDrive i) (s : State) :
    ∃ u, uopTable i k = some u ∧ drivesOutput u (effects i k s) := by
  cases i with
  | start => exact absurd rfl hi
  | stop =>
    simp only [firstClockDrive] at hk
    interval_cases k
    · exact ⟨.setDir .sda .out, rfl, trivial⟩
    · exact ⟨.drive .sda .low, rfl, rfl⟩
  | writeByte b =>
    simp only [firstClockDrive] at hk
    interval_cases k
    · exact ⟨.setDir .sda .out, rfl, trivial⟩
    · exact ⟨.drive .sda (wireBit b 0), rfl, rfl⟩
    · exact ⟨.delay, rfl, trivial⟩
  | waitAck =>
    simp only [firstClockDrive] at hk
    interval_cases k
    · exact ⟨.setDir .sda .inp, rfl, trivial⟩
    · exact ⟨.delay, rfl, trivial⟩
  | readByte a =>
    simp only [firstClockDrive] at hk
    interval_cases k
    exact ⟨.releaseAndClear, rfl, trivial⟩

/-- In a command other than `START` the rows before it leave `IR` and the clock line's direction, and emit one event each. -/
theorem effects_firstClockDrive {i : Instr} (hi : i ≠ .start) (s : State) :
    (effects i (firstClockDrive i) s).ir = s.ir ∧ (effects i (firstClockDrive i) s).sclDir = s.sclDir ∧
      (effects i (firstClockDrive i) s).trace.length = firstClockDrive i := by
  cases i with
  | start => exact absurd rfl hi
  | stop | writeByte | waitAck | readByte => exact ⟨rfl, rfl, rfl⟩

/-- Whether a micro-op can complete depends on the directions of the lines alone (R45). -/
theorem drivesOutput_of_dir_eq {u : MicroOp} {s t : State} (h : drivesOutput u s) (hdir : ∀ l, t.dir l = s.dir l) :
    drivesOutput u t := by
  cases u with
  | drive l v => exact (hdir l).trans h
  | _ => trivial

/-! ### The schedule of engine turns (R10, R28) -/

/-- The state with the turns `ts` to come. -/
def withTurns (ts : List Turn) (s : State) : State :=
  { s with schedule := ts }

theorem step_withTurns_engine (ts : List Turn) (s : State) :
    step (withTurns (.engine :: ts) s) = engineStep (withTurns ts s) :=
  rfl

/-- No micro-op reads the schedule. -/
theorem effect_withTurns (u : MicroOp) (ts : List Turn) (s : State) :
    effect u (withTurns ts s) = withTurns ts (effect u s) := by
  cases u with
  | setDir l d => cases l <;> rfl
  | drive l v => cases l <;> rfl
  | delay | releaseAndClear | sampleAck | sampleRx => rfl
  | reclaimAndDiag => rw [effect_reclaimAndDiag, effect_reclaimAndDiag]; rfl

theorem advance_withTurns (n : Nat) (ts : List Turn) (s : State) :
    advance n (withTurns ts s) = withTurns ts (advance n s) := by
  rw [advance, advance, apply_ite (withTurns ts)]
  rfl

/-- The engine's step does not depend on whose turns are to come (R28). -/
theorem engineStep_withTurns {s t : State} (ts : List Turn) (h : engineStep s = .next t) :
    engineStep (withTurns ts s) = .next (withTurns ts t) := by
  cases hb : s.busy with
  | false =>
    obtain rfl : s = t := by simpa [engineStep_idle hb] using h
    exact engineStep_idle hb
  | true =>
    cases hd : decode s.ir with
    | reserved why => simp [engineStep, hb, hd] at h
    | command i =>
      rw [engineStep_busy hb hd, exec_eq] at h
      obtain ⟨u, v, hu, hv, rfl⟩ := runMicroOp_next h
      obtain ⟨hout, rfl⟩ := drivesOutput_and_eq_effect hv
      have hv' := perform_of_drivesOutput (drivesOutput_of_dir_eq (t := withTurns ts s) hout fun _ => rfl)
      rw [engineStep_busy (s := withTurns ts s) hb hd, exec_eq, runMicroOp_of (s := withTurns ts s) hu hv',
        effect_withTurns, advance_withTurns]

/-! ### What a whole command leaves unchanged -/

/-- A whole command leaves the word in `IR`, `READY`, `CMDERR` and the reply record, and the clock line an output. -/
theorem effects_stepCount_frame (i : Instr) {s : State} (hscl : i ≠ .start → s.sclDir = .out) :
    (effects i (stepCount i) s).ir = s.ir ∧ (effects i (stepCount i) s).ready = s.ready ∧
      (effects i (stepCount i) s).cmdErr = s.cmdErr ∧ (effects i (stepCount i) s).hostLog = s.hostLog ∧
      (effects i (stepCount i) s).sclDir = .out := by
  cases i with
  | start => simp [start_effects]
  | stop => simpa [stop_effects] using hscl
  | writeByte b => simpa [writeByte_effects] using hscl
  | waitAck => simpa [waitAck_effects] using hscl
  | readByte a => simpa [readByte_effects] using hscl

end Sys2Proof.Machine

namespace Sys2Proof.Safety

open Sys2Proof.Machine

/-! ### A run up to the first drive of the clock line (R112, R134) -/

/-- Any command but `START` runs up to its first drive of the clock line, whatever that line is. -/
theorem run_to_firstClockDrive {i : Instr} {s : State} (h : justAccepted i s) (hi : i ≠ .start) {k : Nat}
    (hk : k ≤ firstClockDrive i) :
    run k s = .next (resumed s.trace (BitVec.ofNat 6 k) (effects i k s)) ∧
      inFlight i (resumed s.trace (BitVec.ofNat 6 k) (effects i k s)) := by
  obtain ⟨hf, hs⟩ := h
  induction k with
  | zero => exact ⟨by simp [resumed, effects, ← hs], hf⟩
  | succ k ih =>
    obtain ⟨hrun, hfk⟩ := ih (by omega)
    obtain ⟨u, hu, hout⟩ := row_before_firstClockDrive hi hk s
    have hlt : k + 1 < stepCount i := hk.trans_lt (firstClockDrive_lt_stepCount i)
    have hseq := resumed_seq_toNat (k := k) (by have := stepCount_le i; omega) s.trace (effects i k s)
    have hv := perform_of_drivesOutput
      (drivesOutput_of_dir_eq (t := resumed s.trace (BitVec.ofNat 6 k) (effects i k s)) hout fun _ => rfl)
    rw [effect_resumed] at hv
    obtain ⟨hir, _, hbusy, _⟩ := perform_frame hv
    refine ⟨?_, ?_⟩
    · rw [run_succ_of_run hrun, step_inFlight hfk, exec_inner_row hseq hu hv hlt.ne, effects_succ hu]
      simp [resumed, BitVec.ofNat_add]
    · obtain ⟨hb, hd, hturns⟩ := hfk
      rw [effects_succ hu]
      exact ⟨hbusy.trans hb, (congrArg decode hir).trans hd, (perform_schedule hv).trans hturns⟩

/-! ### Where a run can meet the clock line as an input (R67, R112) -/

/-- Past its first drive of the clock line a command of a run has that line as an output (R67). -/
theorem sclDir_out_of_firstClockDrive_lt {i : Instr} {k : Nat} {s : State} (hm : midLines i k s)
    (hk : firstClockDrive i < k) : s.sclDir = .out := by
  obtain ⟨_, hm⟩ := hm
  cases i with
  | start =>
    obtain ⟨_, hscl, _⟩ := hm
    exact hscl hk.le
  | stop =>
    obtain ⟨_, hscl, _⟩ := hm
    exact (hscl hk).left
  | writeByte b =>
    obtain ⟨_, _, hscl⟩ := hm
    exact (hscl hk).left
  | waitAck =>
    obtain ⟨_, hscl⟩ := hm
    exact (hscl hk).left
  | readByte a =>
    obtain ⟨_, _, _, hscl⟩ := hm
    exact (hscl hk).left

/-- `START` has claimed the clock line when it comes to drive it (R80). -/
theorem sclDir_out_of_start_drives {k : Nat} {s : State} (hm : midLines .start k s) (hk : firstClockDrive .start ≤ k) :
    s.sclDir = .out := by
  obtain ⟨_, _, hscl, _⟩ := hm
  exact hscl hk

/-- A drive of the clock line that meets an input in a run is the first one of a command other than `START`. -/
theorem eq_firstClockDrive_of_drive_row {i : Instr} {k : Nat} {v : Level} {s : State}
    (hu : uopTable i k = some (.drive .scl v)) (hm : midLines i k s) (hin : s.sclDir = .inp) :
    i ≠ .start ∧ k = firstClockDrive i := by
  have hle := firstClockDrive_le_of_drive_row hu
  refine ⟨?_, hle.antisymm' (Nat.le_of_not_lt fun hlt => ?_)⟩
  · rintro rfl
    simp [sclDir_out_of_start_drives hm hle] at hin
  · simp [sclDir_out_of_firstClockDrive_lt hm hlt] at hin

/-! ### A command issued, and lists of them (R66, R69) -/

/-- A run of engine turns from the schedule is a run with the schedule used up. -/
theorem run_engineTurns {k : Nat} {s t : State} (rest : List Turn) (h : run k (withTurns [] s) = .next t) :
    run k (withTurns (List.replicate k .engine ++ rest) s) = .next (withTurns rest t) := by
  induction k generalizing s with
  | zero =>
    obtain rfl : withTurns [] s = t := by simpa using h
    rfl
  | succ k ih =>
    have hstep : step (withTurns [] s) = engineStep (withTurns [] s) := step_nil rfl
    cases hu : engineStep (withTurns [] s) with
    | next u =>
      have hnext (ts : List Turn) : engineStep (withTurns ts s) = .next (withTurns ts u) :=
        engineStep_withTurns (s := withTurns [] s) ts hu
      have hnil : u = withTurns [] u := by simpa [hu] using hnext []
      have hturn : step (withTurns (List.replicate (k + 1) .engine ++ rest) s)
          = .next (withTurns (List.replicate k .engine ++ rest) u) :=
        (step_withTurns_engine _ s).trans (hnext _)
      rw [run_succ (hstep.trans hu), hnil] at h
      rw [run_succ hturn]
      exact ih h
    | fault f => simp [run_succ_fault (hstep.trans hu)] at h
    | refused r => simp [run_succ_refused (hstep.trans hu)] at h

/-- The state after the command `i` has been accepted. -/
def accepted (i : Instr) (s : State) : State :=
  reply .accepted (acceptCommand (encode i) s)

/-- The state after the command `i` has been accepted and has completed. -/
def completed (i : Instr) (s : State) : State :=
  { resumed s.trace 0#6 (effects i (stepCount i) (accepted i s)) with busy := false }

/-- A command issued to a ready and idle engine is accepted and completes, the clock line being an output unless it is `START`. -/
theorem run_issue {i : Instr} {s : State} {rest : List Turn} (hr : s.ready = true) (hb : s.busy = false)
    (hscl : i ≠ .start → s.sclDir = .out) (hs : s.schedule = issue i ++ rest) :
    run (issue i).length s = .next (withTurns rest (completed i (withTurns [] s))) := by
  have haccept : step s = .next (withTurns (List.replicate (stepCount i) .engine ++ rest) (accepted i s)) := by
    rw [step_cons hs]
    exact hostStep_command_accepted ((commandRefusal_none_iff _ _).2 ⟨hr, hb, i, decode_encode i⟩)
  have hj : justAccepted i (accepted i (withTurns [] s)) := ⟨⟨rfl, decode_encode i, rfl⟩, rfl⟩
  have hrun := run_stepCount_effects hj (reliedLinesOut_of_justAccepted hj hscl)
  rw [issue, List.length_cons, List.length_replicate, run_succ haccept]
  exact run_engineTurns rest hrun

/-- Any list of commands issued to a ready and idle engine is accepted and completes, command by command, the clock line being an
output. -/
theorem run_issueAll {is : List Instr} {s : State} (hr : s.ready = true) (hb : s.busy = false) (hscl : s.sclDir = .out)
    (hs : s.schedule = issueAll is) :
    ∃ t, run (issueAll is).length s = .next t ∧ t.busy = false ∧ t.schedule = [] ∧
      t.hostLog = s.hostLog ++ List.replicate is.length .accepted ∧ t.ir = is.getLast?.elim s.ir encode ∧
      t.cmdErr = s.cmdErr ∧ t.sclDir = .out := by
  induction is generalizing s with
  | nil => exact ⟨s, rfl, hb, hs, by simp, rfl, rfl, hscl⟩
  | cons i is ih =>
    have hissue := run_issue hr hb (fun _ => hscl) hs
    obtain ⟨hir, hready, hmark, hlog, hout⟩ :=
      effects_stepCount_frame i (s := accepted i (withTurns [] s)) fun _ => hscl
    obtain ⟨t, hrun, hbusy, hturns, htlog, htir, htmark, htscl⟩ :=
      ih (s := withTurns (issueAll is) (completed i (withTurns [] s))) (hready.trans hr) rfl hout rfl
    refine ⟨t, ?_, hbusy, hturns, ?_, ?_, htmark.trans hmark, htscl⟩
    · rw [issueAll, List.flatMap_cons, List.length_append, run_add _ hissue]
      exact hrun
    · rw [htlog, List.length_cons, List.replicate_succ, List.append_cons]
      exact congrArg (· ++ _) hlog
    · rw [htir, List.getLast?_cons]
      cases is.getLast? with
      | none => exact hir
      | some j => rfl

end Sys2Proof.Safety

/-! ## The statements of faults and completion (spec/60_exceptions.md) -/

namespace Sys2Proof.ExceptionProofs

open Sys2Proof Sys2Proof.Machine Sys2Proof.Safety

/-- Settles O30: the micro-ops before the first drive of the clock line ask nothing of that line and leave it an input. -/
theorem faultsBeforeTheFirstStart : Obligations.FaultsBeforeTheFirstStart := by
  refine ⟨rfl, fun _ => rfl, rfl, fun _ => rfl, fun i s h hin hi => ?_⟩
  obtain ⟨hrun, hf⟩ := run_to_firstClockDrive h hi le_rfl
  obtain ⟨hir, hscl, hlen⟩ := effects_firstClockDrive hi s
  have hseq := resumed_seq_toNat (k := firstClockDrive i)
    ((firstClockDrive_lt_stepCount i).trans_le (stepCount_le i)) s.trace (effects i (firstClockDrive i) s)
  have ⟨hb, _⟩ := hf
  refine ⟨_, hrun, hir, hseq, hb, by simp [resumed, hlen], ?_⟩
  rw [run_succ_of_run hrun, step_inFlight hf]
  exact exec_drive_row_inp (l := .scl) (hscl.trans hin) hseq (uopTable_firstClockDrive i)

/-- Settles O31: the invariant has the data line an output at its drives, and the clock line at all but a command's first. -/
theorem onlyFaultIsClockDriveBeforeStart : Obligations.OnlyFaultIsClockDriveBeforeStart := by
  intro s f ⟨_, _, hrun⟩ h
  obtain ⟨i, l, v, _, hb, hd, hu, hin, rfl⟩ := step_fault_cases h
  obtain ⟨j, hj, _, hm⟩ := hrun hb
  obtain rfl : i = j := by simpa [hd] using hj
  cases l with
  | sda => simp [sdaDir_out_of_drive_row hu hm] at hin
  | scl =>
    obtain ⟨hi, hk⟩ := eq_firstClockDrive_of_drive_row hu hm hin
    refine ⟨rfl, rfl, hin, ?_⟩
    have hseq {q : SeqNo} (hq : firstClockDrive i = q.toNat) : s.seq = q := BitVec.eq_of_toNat_eq (hk.trans hq)
    cases i with
    | start => exact absurd rfl hi
    | stop => exact .inl ⟨hd, hseq rfl⟩
    | writeByte b => exact .inr (.inl ⟨b, hd, hseq rfl⟩)
    | waitAck => exact .inr (.inr (.inl ⟨hd, hseq rfl⟩))
    | readByte a => exact .inr (.inr (.inr ⟨a, hd, hseq rfl⟩))

/-- Settles O45, command by command. -/
theorem commandSequencesComplete : Obligations.CommandSequencesComplete := by
  intro is s hr hb hscl hs
  obtain ⟨t, hrun, hbusy, hturns, hlog, hir, hmark, hout⟩ := run_issueAll hr hb hscl hs
  exact ⟨t, hrun, hbusy, hturns, hlog, fun i hi => by rw [hir, hi]; rfl, hmark, hout⟩

end Sys2Proof.ExceptionProofs

/-! ## The rules of reset and of the boundaries: the delays of a command, the lines from one micro-op to the next, and legal programs -/

namespace Sys2Proof.Machine

open Sys2Proof.Safety

/-! ### The delays of a command (R49, R155) -/

/-- A micro-op adds a delay to the trace exactly if it is `Delay()` (R49, R67). -/
theorem effect_delayCount (u : MicroOp) (s : State) :
    delayCount (effect u s).trace = delayCount s.trace + if u = .delay then 1 else 0 := by
  cases u with
  | setDir | drive | delay | releaseAndClear | sampleAck | sampleRx => simp [effect, setDir, delay, delayCount]
  | reclaimAndDiag => cases ha : s.ack <;> simp [effect, setDir, diagNack, delayCount, ha]

/-- The number of the first `k` rows of the command's table that are `Delay()`. -/
def delayRows (i : Instr) (k : Nat) : Nat :=
  (List.range k).countP fun j => uopTable i j = some .delay

/-- The delays of a command are those rows of its table, whatever the peer does (R67, R155). -/
theorem effects_delayCount (i : Instr) (k : Nat) (s : State) :
    delayCount (effects i k s).trace = delayRows i k := by
  induction k with
  | zero => rfl
  | succ k ih =>
    rw [delayRows, List.range_succ, List.countP_append, ← delayRows, ← ih]
    cases hu : uopTable i k with
    | none => simp [effects, hu]
    | some u => simp [effects_succ hu, effect_delayCount, hu]

end Sys2Proof.Machine

namespace Sys2Proof.Safety

open Sys2Proof.Machine

/-! ### The lines a command has left, one micro-op on (R67)

Each row of a command's table either writes a line as `midLines` says of the next step, or leaves the lines where the next step asks of
them what this one did. -/

theorem levelOfBit_decide_of {p : Prop} [Decidable p] (h : p) : levelOfBit (decide p) = .high := by
  simp [levelOfBit, h]

theorem levelOfBit_decide_of_not {p : Prop} [Decidable p] (h : ¬ p) : levelOfBit (decide p) = .low := by
  simp [levelOfBit, h]

theorem midLines_start_succ {k : Nat} {u : MicroOp} {s : State} (hu : uopTable .start k = some u)
    (hm : midLines .start k s) (hk : k + 1 < 8) : midLines .start (k + 1) (effect u s) := by
  obtain ⟨_, hsda, hscl, hhigh, hlow, hclock⟩ := hm
  match k, hu with
  | 0, rfl | 1, rfl | 2, rfl | 3, rfl | 4, rfl | 5, rfl | 6, rfl =>
    simp [midLines, effect, setDir, delay, hsda, hscl, hhigh, hlow, hclock]

theorem midLines_stop_succ {k : Nat} {u : MicroOp} {s : State} (hu : uopTable .stop k = some u)
    (hd : drivesOutput u s) (hm : midLines .stop k s) : midLines .stop (k + 1) (effect u s) := by
  obtain ⟨_, hsda, hscl, hlow, hhigh⟩ := hm
  match k, hu with
  | 0, rfl | 1, rfl | 3, rfl | 4, rfl | 5, rfl =>
    simp [midLines, effect, setDir, delay, hsda, hscl, hlow, hhigh]
  | 2, rfl =>
    have hout : s.sclDir = .out := hd
    simp [midLines, effect, hsda, hout, hlow]

theorem midLines_writeByte_succ {b : Byte} {k : Nat} {u : MicroOp} {s : State} (hu : uopTable (.writeByte b) k = some u)
    (hd : drivesOutput u s) (hm : midLines (.writeByte b) k s) : midLines (.writeByte b) (k + 1) (effect u s) := by
  obtain ⟨_, hsda, hbit, hscl⟩ := hm
  have hclock (h4 : 4 ≤ k) (h : k % 6 = 3 ∨ k % 6 = 4 ↔ (k - 1) % 6 = 3 ∨ (k - 1) % 6 = 4) :
      s.sclDir = .out ∧ s.sclOut = levelOfBit (decide (k % 6 = 3 ∨ k % 6 = 4)) := by
    simpa only [h] using hscl h4
  simp only [uopTable, writeByteUop] at hu
  split_ifs at hu with h0 h48
  · subst h0; cases hu
    simp [midLines, effect, setDir]
  · have hpos : 1 ≤ k := by omega
    have hdata (h : (k - 1) % 6 ≠ 0) : s.sdaOut = wireBit b ((k + 1 - 2) / 6) := by
      rw [hbit (by omega)]; congr 1; omega
    have hout := hsda hpos
    refine ⟨fun h => absurd h k.succ_ne_zero, ?_⟩
    split at hu <;> cases hu
    · exact ⟨fun _ => hout, fun _ => rfl, fun _ => hclock (by omega) (by omega)⟩
    · exact ⟨fun _ => hout, fun _ => hdata (by omega), fun _ => ⟨hd, (levelOfBit_decide_of (by omega)).symm⟩⟩
    · exact ⟨fun _ => hout, fun _ => hdata (by omega), fun _ => ⟨hd, (levelOfBit_decide_of_not (by omega)).symm⟩⟩
    · next h0 h2 h4 =>
      rw [imp_false] at h0 h2 h4
      exact ⟨fun _ => hout, fun _ => hdata h0, fun _ => hclock (by omega) (by omega)⟩

theorem midLines_waitAck_succ {k : Nat} {u : MicroOp} {s : State} (hu : uopTable .waitAck k = some u)
    (hd : drivesOutput u s) (hm : midLines .waitAck k s) (hk : k + 1 < 8) :
    midLines .waitAck (k + 1) (effect u s) := by
  obtain ⟨_, hsda, hscl⟩ := hm
  match k, hu with
  | 0, rfl | 1, rfl | 3, rfl | 4, rfl | 5, rfl | 6, rfl =>
    simp [midLines, effect, setDir, delay, hsda, hscl, levelOfBit]
  | 2, rfl =>
    have hout : s.sclDir = .out := hd
    simp [midLines, effect, hsda, hout, levelOfBit]

/-- While `READ_BYTE` receives, the data line is released and the clock goes by the phase alone. -/
theorem midLines_readByte_receiving {a : Bool} {k : Nat} {s : State} (hk : k ≤ 40) (hsda : s.sdaDir = .inp)
    (hscl : s.sclDir = .out ∧ s.sclOut = levelOfBit (decide (1 ≤ k % 5 ∧ k % 5 ≤ 3))) :
    midLines (.readByte a) (k + 1) s := by
  obtain ⟨hout, hlevel⟩ := hscl
  refine ⟨fun h => absurd h k.succ_ne_zero, fun _ _ => hsda, fun _ => by omega, fun _ => by omega, fun _ =>
    ⟨hout, hlevel.trans (congrArg levelOfBit (decide_eq_decide.2 ?_))⟩⟩
  omega

theorem midLines_readByte_succ {a : Bool} {k : Nat} {u : MicroOp} {s : State} (hu : uopTable (.readByte a) k = some u)
    (hd : drivesOutput u s) (hm : midLines (.readByte a) k s) : midLines (.readByte a) (k + 1) (effect u s) := by
  obtain ⟨_, hinp, hout, hack, hscl⟩ := hm
  simp only [uopTable, readByteUop] at hu
  split_ifs at hu with h0 h40
  · subst h0; cases hu
    simp [midLines, effect, setDir]
  · have hsda : s.sdaDir = .inp := hinp (by omega) (by omega)
    have hclock (h2 : 2 ≤ k) (h : 1 ≤ k % 5 ∧ k % 5 ≤ 3 ↔ 1 ≤ (k - 1) % 5 ∧ (k - 1) % 5 ≤ 3) :
        s.sclDir = .out ∧ s.sclOut = levelOfBit (decide (1 ≤ k % 5 ∧ k % 5 ≤ 3)) := by
      obtain ⟨hout, hlevel⟩ := hscl h2
      refine ⟨hout, hlevel.trans (congrArg levelOfBit (decide_eq_decide.2 ?_))⟩
      omega
    split at hu <;> cases hu
    · exact midLines_readByte_receiving h40 hsda ⟨hd, (levelOfBit_decide_of (by omega)).symm⟩
    · exact midLines_readByte_receiving h40 hsda (hclock (by omega) (by omega))
    · exact midLines_readByte_receiving h40 hsda ⟨hd, (levelOfBit_decide_of_not (by omega)).symm⟩
    · next h0 h2 h3 =>
      rw [imp_false] at h0 h2 h3
      exact midLines_readByte_receiving h40 hsda (hclock (by omega) (by omega))
  · split at hu <;> cases hu
    all_goals simp [midLines, effect, setDir, delay, hout, hack, hscl, levelOfBit]

/-- An inner micro-op of a command leaves the lines as the next one is to find them (R67). -/
theorem midLines_succ {i : Instr} {k : Nat} {u : MicroOp} {s : State} (hu : uopTable i k = some u)
    (hd : drivesOutput u s) (hm : midLines i k s) (hk : k + 1 < stepCount i) : midLines i (k + 1) (effect u s) := by
  cases i with
  | start => exact midLines_start_succ hu hm hk
  | stop => exact midLines_stop_succ hu hd hm
  | writeByte b => exact midLines_writeByte_succ hu hd hm
  | waitAck => exact midLines_waitAck_succ hu hd hm hk
  | readByte a => exact midLines_readByte_succ hu hd hm

/-- The lines of reset and claimed lines are both as a command may find them. -/
theorem midLines_zero (i : Instr) {s : State} (h : linesFresh s ∨ linesClaimed s) : midLines i 0 s := by
  refine ⟨fun _ => h, ?_⟩
  cases i <;> simp

/-! ### The lines at a boundary (R140) -/

/-- The last micro-op of a command leaves the lines as the command's row of R140 says. -/
theorem boundaryLines_last {i : Instr} {k : Nat} {u : MicroOp} {s : State} (hu : uopTable i k = some u)
    (hm : midLines i k s) (hk : k + 1 = stepCount i) (hir : decode s.ir = .command i) :
    boundaryLines (effect u s) := by
  obtain ⟨_, hm⟩ := hm
  cases i with
  | start =>
    obtain rfl : k = 7 := Nat.succ.inj hk
    obtain rfl : MicroOp.drive .scl .low = u := Option.some.inj hu
    obtain ⟨hsda, hscl, _, hlow, _⟩ := hm
    simp [boundaryLines, linesClaimed, effect, hir, hsda, hscl, hlow]
  | stop =>
    obtain rfl : k = 5 := Nat.succ.inj hk
    obtain rfl : MicroOp.delay = u := Option.some.inj hu
    obtain ⟨hsda, hscl, _, hhigh⟩ := hm
    simp [boundaryLines, linesClaimed, effect, delay, hir, hsda, hscl, hhigh]
  | writeByte b =>
    obtain rfl : k = 48 := Nat.succ.inj hk
    obtain rfl : MicroOp.delay = u := Option.some.inj hu
    obtain ⟨hsda, hbit, hscl⟩ := hm
    simp [boundaryLines, linesClaimed, effect, delay, hir, hsda, hbit, hscl, levelOfBit]
  | waitAck =>
    obtain rfl : k = 7 := Nat.succ.inj hk
    obtain rfl : MicroOp.reclaimAndDiag = u := Option.some.inj hu
    obtain ⟨_, hscl⟩ := hm
    simp [boundaryLines, linesClaimed, effect_reclaimAndDiag, hir, hscl, levelOfBit]
  | readByte a =>
    obtain rfl : k = 46 := Nat.succ.inj hk
    obtain rfl : MicroOp.delay = u := Option.some.inj hu
    obtain ⟨_, hout, hack, hscl⟩ := hm
    simp [boundaryLines, linesClaimed, effect, delay, hir, hout, hack, hscl, levelOfBit]

/-- Every row of R140 has both lines as reset leaves them, or both as outputs. -/
theorem linesFresh_or_linesClaimed_of_boundaryLines {s : State} (h : boundaryLines s) :
    linesFresh s ∨ linesClaimed s := by
  unfold boundaryLines at h
  split at h
  case h_1 =>
    obtain ⟨_, hfresh⟩ := h
    exact .inl hfresh
  all_goals
    obtain ⟨hclaimed, _⟩ := h
    exact .inr hclaimed

/-- The row of R140 for no command completed yet (R130). -/
theorem boundaryLines_of_linesFresh {s : State} (hir : s.ir = 0x0000#16) (h : linesFresh s) : boundaryLines s := by
  have hres : decode s.ir = .reserved .opUnknown := by rw [hir]; decide
  simp only [boundaryLines, hres]
  exact ⟨hir, h⟩

/-! ### The invariant of runs, by what a step does (R10, R28, R66, R130) -/

theorem runInv_of_boundary {s : State} (hb : s.busy = false) (hs : s.seq = 0#6) (h : boundaryLines s) : runInv s :=
  ⟨by simp [hb], fun _ => ⟨hs, h⟩, by simp [hb]⟩

theorem runInv_of_inFlight {i : Instr} {s : State} (hb : s.busy = true) (hr : s.ready = true)
    (hd : decode s.ir = .command i) (hk : s.seq.toNat < stepCount i) (hm : midLines i s.seq.toNat s) : runInv s :=
  ⟨fun _ => hr, by simp [hb], fun _ => ⟨i, hd, hk, hm⟩⟩

theorem runInv_resetWith (ok : Bool) : runInv (State.resetWith ok) :=
  runInv_of_boundary rfl rfl (boundaryLines_of_linesFresh rfl ⟨rfl, rfl, rfl, rfl⟩)

theorem runInv_resetEngine (ok : Bool) (s : State) : runInv (resetEngine ok s) :=
  runInv_of_boundary rfl rfl (boundaryLines_of_linesFresh rfl ⟨rfl, rfl, rfl, rfl⟩)

/-- An accepted command finds the lines of a boundary, which are as its first micro-op is to find them. -/
theorem runInv_accepted {w : Word} {s : State} (h : runInv s) (hw : commandRefusal w s = none) :
    runInv (reply .accepted (acceptCommand w s)) := by
  obtain ⟨hready, hidle, i, hi⟩ := (commandRefusal_none_iff w s).1 hw
  obtain ⟨_, hboundary, _⟩ := h
  obtain ⟨_, hlines⟩ := hboundary hidle
  have hstart := linesFresh_or_linesClaimed_of_boundaryLines hlines
  have hm : midLines i 0 (reply .accepted (acceptCommand w s)) := midLines_zero i hstart
  exact runInv_of_inFlight rfl hready hi (Nat.zero_lt_of_lt (firstClockDrive_lt_stepCount i)) hm

theorem runInv_hostStep {a : HostAction} {s t : State} (h : runInv s) (ht : hostStep a s = .next t) : runInv t := by
  obtain ⟨_, _, rfl⟩ | ⟨_, _, _, _, rfl⟩ | ⟨w, _, hw, rfl⟩ := hostStep_next_cases ht
  · exact h
  · exact h
  · exact runInv_accepted h hw

/-- One micro-op of the command in flight and the move of the counter: inside the command, or to the boundary after it. -/
theorem runInv_microOp {i : Instr} {u : MicroOp} {s v : State} (h : runInv s) (hb : s.busy = true)
    (hi : decode s.ir = .command i) (hu : uopTable i s.seq.toNat = some u) (hv : perform u s = .next v) :
    runInv (advance (stepCount i) v) := by
  obtain ⟨hready, _, hrun⟩ := h
  obtain ⟨j, hj, hlt, hm⟩ := hrun hb
  obtain rfl : i = j := by simpa [hi] using hj
  obtain ⟨hir, hseq, hbusy, hr, _⟩ := perform_frame hv
  obtain ⟨hd, rfl⟩ := drivesOutput_and_eq_effect hv
  by_cases hl : s.seq.toNat + 1 = stepCount i
  · rw [advance_last (by rwa [hseq])]
    exact runInv_of_boundary rfl rfl (boundaryLines_last hu hm hl hi)
  · have hlt' : s.seq.toNat + 1 < stepCount i := by omega
    have hnext : (s.seq + 1#6).toNat = s.seq.toNat + 1 := seq_succ_toNat (hlt.trans_le (stepCount_le i))
    rw [advance_inner (by rwa [hseq]), hseq]
    refine runInv_of_inFlight (i := i) (hbusy.trans hb) (hr.trans (hready hb)) ((congrArg decode hir).trans hi) ?_ ?_
    · exact hnext.trans_lt hlt'
    · simp only [hnext]
      exact midLines_succ hu hd hm hlt'

/-! ### Legal programs (R134, R141, R142) -/

/-- The clock is held low if the host stands inside a transaction (R141, R142). -/
def clockHeld (p : Phase) (s : State) : Prop :=
  p ≠ .outside → s.sclDir = .out ∧ s.sclOut = .low

/-- Outside a transaction the grammar of R141 allows only `START`. -/
theorem ne_outside_of_next {p q : Phase} {i : Instr} (h : p.next i = some q) (hi : i ≠ .start) : p ≠ .outside := by
  rintro rfl
  cases i with
  | start => exact hi rfl
  | stop | writeByte | waitAck | readByte => cases h

/-- `STOP` ends the transaction. -/
theorem ne_stop_of_next {p q : Phase} {i : Instr} (h : p.next i = some q) (hq : q ≠ .outside) : i ≠ .stop := by
  rintro rfl
  cases p with
  | inside => exact hq (Option.some.inj h).symm
  | outside | afterWrite => cases h

theorem legalFrom_cons {p : Phase} {i : Instr} {is : List Instr} (h : legalFrom p (i :: is) = true) :
    ∃ q, p.next i = some q ∧ legalFrom q is = true := by
  cases hq : p.next i with
  | none => simp [legalFrom, hq] at h
  | some q => exact ⟨q, rfl, by simpa [legalFrom, hq] using h⟩

/-- Every command but `STOP` leaves the clock low (R140). -/
theorem effects_stepCount_sclOut {i : Instr} (hi : i ≠ .stop) (s : State) :
    (effects i (stepCount i) s).sclOut = .low := by
  cases i with
  | start => rw [start_effects]
  | stop => exact absurd rfl hi
  | writeByte b => rw [writeByte_effects]
  | waitAck => rw [waitAck_effects]
  | readByte a => rw [readByte_effects]

/-- The commands of a legal program before any one of them complete without a refusal, and leave the clock held wherever the grammar
allows another command than `START` (R134, R141, R142). -/
theorem run_legalFrom {pre post : List Instr} {i : Instr} {p : Phase} {s : State}
    (hl : legalFrom p (pre ++ i :: post) = true) (hp : clockHeld p s) (hr : s.ready = true) (hb : s.busy = false)
    (hs : s.schedule = issueAll pre) :
    ∃ t, run (issueAll pre).length s = .next t ∧ t.busy = false ∧ t.cmdErr = s.cmdErr ∧ t.schedule = [] ∧
      (i ≠ .start → t.sclDir = .out ∧ t.sclOut = .low) := by
  induction pre generalizing p s with
  | nil =>
    obtain ⟨q, hq, _⟩ := legalFrom_cons hl
    exact ⟨s, rfl, hb, rfl, hs, fun hi => hp (ne_outside_of_next hq hi)⟩
  | cons j pre ih =>
    obtain ⟨q, hq, hl'⟩ := legalFrom_cons hl
    have hscl (hj : j ≠ .start) : s.sclDir = .out := (hp (ne_outside_of_next hq hj)).left
    obtain ⟨_, hready, hmark, _, hout⟩ := effects_stepCount_frame j (s := accepted j (withTurns [] s)) hscl
    have hheld : clockHeld q (withTurns (issueAll pre) (completed j (withTurns [] s))) := fun hne =>
      ⟨hout, effects_stepCount_sclOut (ne_stop_of_next hq hne) _⟩
    obtain ⟨t, hrun, hbusy, htmark, hturns, hclock⟩ := ih hl' hheld (hready.trans hr) rfl rfl
    refine ⟨t, ?_, hbusy, htmark.trans hmark, hturns, hclock⟩
    rw [issueAll, List.flatMap_cons, List.length_append, run_add _ (run_issue hr hb hscl hs)]
    exact hrun

end Sys2Proof.Safety

/-! ## The statements of reset and the boundaries (spec/70_reset_and_hazards.md) -/

namespace Sys2Proof.ResetProofs

open Sys2Proof Sys2Proof.Machine Sys2Proof.Safety

/-- Settles O34: the invariant does not read the schedule, and each turn keeps it. -/
theorem stepKeepsRunInv : Obligations.StepKeepsRunInv := by
  intro s t hs h
  obtain ⟨p, rfl, ⟨_, _, rfl⟩ | ⟨i, u, v, _, hb, hi, hu, hv, rfl⟩ | ⟨a, _, ha⟩ | ⟨ok, _, rfl⟩⟩ := step_next_cases h
  · exact hs
  · exact runInv_microOp (s := { s with schedule := s.schedule.tail }) hs hb hi hu hv
  · exact runInv_hostStep (s := { s with schedule := s.schedule.tail }) hs ha
  · exact runInv_resetEngine ok _

/-- Settles O24: the delays are counted on the rows of each command's table. -/
theorem delaysPerCommand : Obligations.DelaysPerCommand := by
  intro i s h hscl
  have hrun := run_stepCount_effects h (reliedLinesOut_of_justAccepted h hscl)
  refine ⟨_, _, hrun, rfl, fun q => ?_, ?_⟩
  · rw [leastDuration, effects_delayCount, Nat.mul_comm]
    cases i <;> rfl
  · rw [leastDuration, effects_delayCount]
    cases i <;> rfl

/-- Settles O46: a program begins outside any transaction, where nothing is asked of the clock. -/
theorem legalProgramsRunFromReset : Obligations.LegalProgramsRunFromReset := fun _ _ _ hl =>
  run_legalFrom hl (fun h => absurd rfl h) rfl rfl rfl

/-- Settles O33: reset leaves a boundary with no command completed. -/
theorem resetMeetsRunInv : Obligations.ResetMeetsRunInv :=
  ⟨runInv_resetWith _, runInv_resetWith⟩

/-- Settles O55: the elements are those of `resetWith`, and the two registers of single bits then read as their layouts say. -/
theorem resetValues : Obligations.ResetValues := by
  obtain ⟨_, hstatus⟩ := StateProofs.statusLayout
  obtain ⟨_, hlines⟩ := StateProofs.linesLayout
  refine ⟨rfl, fun ok => ⟨_, rfl, rfl, rfl, rfl, rfl, rfl, rfl, rfl, rfl, rfl, rfl, rfl, rfl, rfl, ?_, rfl, ?_⟩⟩
  · rw [← hstatus ok]; rfl
  · rw [← hlines ok]; rfl

/-- Settles O56: a reset turn writes every element but these. -/
theorem resetAtAnyTime : Obligations.ResetAtAnyTime :=
  fun _ _ _ h => step_cons h

end Sys2Proof.ResetProofs
